-- ==== Sys2Proof/Word.lean ====
section
/-! DEFINITION. The two word types of the block: every transport byte is 8 bits, and the checksum,
topic id, length and counters are 16 bits (00_scope.md R6). -/

namespace Sys2Proof

/-- One transport, payload or buffer byte. -/
abbrev Byte := BitVec 8

/-- A 16-bit header field, counter or address. -/
abbrev Half := BitVec 16

end Sys2Proof
end

