-- ==== Sys2Proof/Config.lean ====
section
/-! DEFINITION. What is fixed before the block operates (00_scope.md R5), and the model's free values. -/

namespace Sys2Proof

/-- The four build-time parameters of R5. `maxPacketSize` is a 16-bit value because its legal range
is exactly 0 to 65535 (D25). -/
structure Params where
  /-- `MAX_PACKET_SIZE`: the largest declared length the parser accepts, and the buffer's capacity. -/
  maxPacketSize : Half
  /-- `END_MARKER_ENABLED`: whether 0x97 is a reserved control byte. -/
  endMarker : Bool
  /-- `STRICT_ESCAPE`: whether the byte after ESCAPE must be a reserved control byte. -/
  strictEscape : Bool
  /-- `INCOMPLETE_TIMEOUT_PRESENT`: whether the block has the idle-timeout abort. -/
  timeoutPresent : Bool
  deriving DecidableEq, Repr

/-- The defaults of R5's table. -/
def Params.default : Params :=
  { maxPacketSize := 256#16, endMarker := true, strictEscape := false, timeoutPresent := false }

/-- FREE VALUE (log 5): what an `rx_buf` cell that no store has written since power-on holds
(10_state.md R24, I9). First argument: `State.powerOn`; second: the cell's index. -/
opaque Config.unwrittenRxByte : Nat → Nat → Byte

/-- FREE VALUE (log 6): what a `PAY` cell that no `PayWrite` has written holds. First argument:
`State.powerOn`; second: the address. -/
opaque Config.unwrittenPayByte : Nat → Nat → Byte

end Sys2Proof
end

