-- ==== Sys2Proof/Machine/Codes.lean ====
section
/-! DEFINITION. The reserved control bytes (30_encoding.md R45) and the numeric codes of the state,
phase, event and error registers (R50, R53, R56, R57). -/

namespace Sys2Proof

/-- Starts a frame (R45). -/
abbrev HEADER : Byte := 0x99#8
/-- Prefixes a payload byte that equals a reserved control byte (R45). -/
abbrev ESCAPE : Byte := 0x98#8
/-- The standalone end-of-stream marker, when `END_MARKER_ENABLED` (R45, R47). -/
abbrev ENDMARK : Byte := 0x97#8

namespace RxState

/-! Parser state codes, R50. Codes 6 and 7 are reserved. -/
abbrev wfh : BitVec 3 := 0#3
abbrev rck : BitVec 3 := 1#3
abbrev rtid : BitVec 3 := 2#3
abbrev rlen : BitVec 3 := 3#3
abbrev rdata : BitVec 3 := 4#3
abbrev resc : BitVec 3 := 5#3

end RxState

namespace TxPhase

/-! TX phase codes, R53. Codes 11 to 15 are reserved. -/
abbrev idle : BitVec 4 := 0#4
abbrev hdr : BitVec 4 := 1#4
abbrev chkHi : BitVec 4 := 2#4
abbrev chkLo : BitVec 4 := 3#4
abbrev tidHi : BitVec 4 := 4#4
abbrev tidLo : BitVec 4 := 5#4
abbrev lenHi : BitVec 4 := 6#4
abbrev lenLo : BitVec 4 := 7#4
abbrev data : BitVec 4 := 8#4
abbrev dataEsc : BitVec 4 := 9#4
abbrev endmk : BitVec 4 := 10#4

end TxPhase

namespace EvtType

/-! Event type codes, R56. Code 3 is reserved and never written. -/
abbrev packet : BitVec 2 := 0#2
abbrev error : BitVec 2 := 1#2
abbrev boundary : BitVec 2 := 2#2

end EvtType

/-- The six error kinds of R57. -/
inductive ErrorKind where
  | checksumMismatch | bufferOverflow | unexpectedHeader | incompletePacket | unknownError
  | outOfFrameByte
  deriving DecidableEq, Repr

/-- The `evt_err` code of an error kind (R57). -/
def ErrorKind.code : ErrorKind → BitVec 3
  | .checksumMismatch => 0#3
  | .bufferOverflow => 1#3
  | .unexpectedHeader => 2#3
  | .incompletePacket => 3#3
  | .unknownError => 4#3
  | .outOfFrameByte => 5#3

end Sys2Proof
end

