-- ==== Sys2Proof/Syntax.lean ====
section
/-! DEFINITION. The operations of spec/opcode_table.json, one constructor a row (TX_RSVD has two rows
and two constructors), and the select words that choose them (30_encoding.md R51 to R55). -/

namespace Sys2Proof

/-- One constructor per row of the opcode table. An operand that the row fixes is no argument. -/
inductive Instr where
  /-- RX_WFH_HDR, R80: byte 0x99 in WFH. -/
  | rxWfhHdr
  /-- RX_WFH_END, R81: byte 0x97 in WFH, with `END_MARKER_ENABLED`. -/
  | rxWfhEnd
  /-- RX_WFH_OOF, R82: any other byte in WFH. -/
  | rxWfhOof (b : Byte)
  /-- RX_RCK, R83. -/
  | rxRck (b : Byte)
  /-- RX_RTID, R84. -/
  | rxRtid (b : Byte)
  /-- RX_RLEN, R85. -/
  | rxRlen (b : Byte)
  /-- RX_RDATA_ESC, R86: byte 0x98 in RDATA. -/
  | rxRdataEsc
  /-- RX_RDATA_HDR, R87: byte 0x99 in RDATA. -/
  | rxRdataHdr
  /-- RX_RDATA_BYTE, R88: any other byte in RDATA. -/
  | rxRdataByte (b : Byte)
  /-- RX_RESC, R89. -/
  | rxResc (b : Byte)
  /-- RX_RSVD, R90: parser state 6 (`lo = 0`) or 7 (`lo = 1`), any byte. -/
  | rxRsvd (lo : BitVec 1) (b : Byte)
  /-- SEND_FRAME, R101. -/
  | sendFrame (topic len : Half)
  /-- SEND_END, R102. Its topic and length bits are ignored, so they are no operands. -/
  | sendEnd
  /-- TX_HDR, R104. -/
  | txHdr
  /-- TX_CHK_HI, R105. -/
  | txChkHi
  /-- TX_CHK_LO, R106. -/
  | txChkLo
  /-- TX_TID_HI, R107. -/
  | txTidHi
  /-- TX_TID_LO, R108. -/
  | txTidLo
  /-- TX_LEN_HI, R109. -/
  | txLenHi
  /-- TX_LEN_LO, R110. -/
  | txLenLo
  /-- TX_DATA, R111. -/
  | txData
  /-- TX_DATA_ESC, R112. -/
  | txDataEsc
  /-- TX_ENDMK, R113. -/
  | txEndmk
  /-- TX_RSVD, R114, the row of phase 11. -/
  | txRsvdB
  /-- TX_RSVD, R114, the row of phases 12 to 15: phase `12 + lo`. -/
  | txRsvdC (lo : BitVec 2)
  /-- EVT_ACK, 60_exceptions.md R142. -/
  | evtAck
  /-- TIMEOUT, 60_exceptions.md R146. -/
  | timeout
  /-- RESET, 70_reset_and_hazards.md R160. -/
  | reset
  /-- BUF_READ, 20_memory.md R31, with `a = buf_raddr`. -/
  | bufRead (a : Half)
  deriving DecidableEq, Repr

/-- A select word, in the decode space it belongs to (R51, R52, R54, R55). BUF_READ's operand
`buf_raddr` stands beside the control word `k`; the other control actions ignore it (log 12). -/
inductive SelWord where
  /-- `w = {rx_state, b}`. -/
  | rx (w : BitVec 11)
  /-- `c = {cmd_op, cmd_topic, cmd_len}`. -/
  | txCmd (c : BitVec 33)
  /-- `e = tx_phase`. -/
  | txEmit (e : BitVec 4)
  /-- `k`, and `buf_raddr`. -/
  | ctl (k : BitVec 2) (a : Half)
  deriving DecidableEq, Repr

/-- Why a word is rejected. -/
inductive DecodeError where
  /-- Space tx_emit has no row for phase IDLE (R54): a TxEmit step is not enabled in IDLE. -/
  | idleHasNoRow
  deriving DecidableEq, Repr

end Sys2Proof
end

