-- ==== Sys2Proof/WellFormed.lean ====
section
/-! DEFINITION. Which operand values a row of the opcode table admits: the conditions of 30_encoding.md
R51 (rows 2, 3 and 9). Every other row admits every value of its operands. -/

namespace Sys2Proof

/-- Row 3, RX_WFH_OOF: no earlier row matched. -/
def wfOutOfFrameByte (p : Params) (b : Byte) : Bool :=
  b != HEADER && !(p.endMarker && b == ENDMARK)

/-- Row 9, RX_RDATA_BYTE: no earlier row matched. -/
def wfPayloadByte (b : Byte) : Bool :=
  b != ESCAPE && b != HEADER

/-- Whether the block built with parameters `p` can decode some word to `i`. -/
def Instr.wellFormed (p : Params) : Instr → Bool
  | .rxWfhEnd => p.endMarker
  | .rxWfhOof b => wfOutOfFrameByte p b
  | .rxRdataByte b => wfPayloadByte b
  | .rxWfhHdr | .rxRck _ | .rxRtid _ | .rxRlen _ | .rxRdataEsc | .rxRdataHdr | .rxResc _
  | .rxRsvd _ _ | .sendFrame _ _ | .sendEnd | .txHdr | .txChkHi | .txChkLo | .txTidHi | .txTidLo
  | .txLenHi | .txLenLo | .txData | .txDataEsc | .txEndmk | .txRsvdB | .txRsvdC _ | .evtAck
  | .timeout | .reset | .bufRead _ => true

end Sys2Proof
end

