-- ==== Sys2Proof/Decode.lean ====
section
/-! DEFINITION. The decoder of 30_encoding.md R51 to R55, total on every select word; the encoder, written
from the same tables; the tables themselves as data; and the number-to-word reading of
spec/opcode_table.json. -/

namespace Sys2Proof

/-! ## The decoder -/

/-- Bits 10:8 of an rx word: the parser state (R51). -/
def rxWordState (w : BitVec 11) : BitVec 3 := w.extractLsb' 8 3

/-- Bits 7:0 of an rx word: the received byte (R51). -/
def rxWordByte (w : BitVec 11) : Byte := w.extractLsb' 0 8

/-- `w = {rx_state, b}` (R51). -/
def rxWord (st : BitVec 3) (b : Byte) : BitVec 11 := st ++ b

/-- Space rx, R51: rows 1 to 3 in WFH, rows 7 to 9 in RDATA, one row in each other state. -/
def decodeRx (p : Params) (w : BitVec 11) : Instr :=
  let st := rxWordState w
  let b := rxWordByte w
  if st = RxState.wfh then
    if b = HEADER then .rxWfhHdr
    else if p.endMarker && b == ENDMARK then .rxWfhEnd
    else .rxWfhOof b
  else if st = RxState.rck then .rxRck b
  else if st = RxState.rtid then .rxRtid b
  else if st = RxState.rlen then .rxRlen b
  else if st = RxState.rdata then
    if b = ESCAPE then .rxRdataEsc
    else if b = HEADER then .rxRdataHdr
    else .rxRdataByte b
  else if st = RxState.resc then .rxResc b
  else .rxRsvd (st.extractLsb' 0 1) b

/-- `c = {op, topic, len}` (R52). -/
def txCmdWord (op : BitVec 1) (topic len : Half) : BitVec 33 := op ++ (topic ++ len)

/-- Space tx_cmd, R52: bit 32 is `op`, bits 31:16 the topic, bits 15:0 the length. -/
def decodeTxCmd (c : BitVec 33) : Instr :=
  if c.extractLsb' 32 1 = 0#1 then .sendFrame (c.extractLsb' 16 16) (c.extractLsb' 0 16)
  else .sendEnd

/-- Space tx_emit, R54. -/
def decodeTxEmit (e : BitVec 4) : Except DecodeError Instr :=
  if e = TxPhase.idle then .error .idleHasNoRow
  else if e = TxPhase.hdr then .ok .txHdr
  else if e = TxPhase.chkHi then .ok .txChkHi
  else if e = TxPhase.chkLo then .ok .txChkLo
  else if e = TxPhase.tidHi then .ok .txTidHi
  else if e = TxPhase.tidLo then .ok .txTidLo
  else if e = TxPhase.lenHi then .ok .txLenHi
  else if e = TxPhase.lenLo then .ok .txLenLo
  else if e = TxPhase.data then .ok .txData
  else if e = TxPhase.dataEsc then .ok .txDataEsc
  else if e = TxPhase.endmk then .ok .txEndmk
  else if e = 11#4 then .ok .txRsvdB
  else .ok (.txRsvdC (e.extractLsb' 0 2))

/-- Space ctl, R55. -/
def decodeCtl (k : BitVec 2) (a : Half) : Instr :=
  if k = 0#2 then .evtAck
  else if k = 1#2 then .timeout
  else if k = 2#2 then .reset
  else .bufRead a

/-- The instruction a select word chooses in a block built with parameters `p`. -/
def decode (p : Params) : SelWord → Except DecodeError Instr
  | .rx w => .ok (decodeRx p w)
  | .txCmd c => .ok (decodeTxCmd c)
  | .txEmit e => decodeTxEmit e
  | .ctl k a => .ok (decodeCtl k a)

/-! ## The encoder -/

/-- The select word of an instruction. Bits the spec says are ignored (SEND_END's topic and length,
`buf_raddr` beside a control word other than BUF_READ's) are 0. -/
def encode : Instr → SelWord
  | .rxWfhHdr => .rx 0x099#11
  | .rxWfhEnd => .rx 0x097#11
  | .rxWfhOof b => .rx (rxWord RxState.wfh b)
  | .rxRck b => .rx (rxWord RxState.rck b)
  | .rxRtid b => .rx (rxWord RxState.rtid b)
  | .rxRlen b => .rx (rxWord RxState.rlen b)
  | .rxRdataEsc => .rx 0x498#11
  | .rxRdataHdr => .rx 0x499#11
  | .rxRdataByte b => .rx (rxWord RxState.rdata b)
  | .rxResc b => .rx (rxWord RxState.resc b)
  | .rxRsvd lo b => .rx (rxWord (0b11#2 ++ lo) b)
  | .sendFrame topic len => .txCmd (txCmdWord 0#1 topic len)
  | .sendEnd => .txCmd (txCmdWord 1#1 0#16 0#16)
  | .txHdr => .txEmit 0x1#4
  | .txChkHi => .txEmit 0x2#4
  | .txChkLo => .txEmit 0x3#4
  | .txTidHi => .txEmit 0x4#4
  | .txTidLo => .txEmit 0x5#4
  | .txLenHi => .txEmit 0x6#4
  | .txLenLo => .txEmit 0x7#4
  | .txData => .txEmit 0x8#4
  | .txDataEsc => .txEmit 0x9#4
  | .txEndmk => .txEmit 0xA#4
  | .txRsvdB => .txEmit 0xB#4
  | .txRsvdC lo => .txEmit (0b11#2 ++ lo)
  | .evtAck => .ctl 0b00#2 0#16
  | .timeout => .ctl 0b01#2 0#16
  | .reset => .ctl 0b10#2 0#16
  | .bufRead a => .ctl 0b11#2 a

/-! ## The tables as data -/

/-- A row of the rx table of R51, read as the spec prints it. -/
structure RxRow where
  pattern : BitVec 11
  mask : BitVec 11
  needsEndMarker : Bool
  deriving DecidableEq, Repr

/-- Whether `(word & mask) = match` and the row's condition holds (30_encoding.md section 2). -/
def RxRow.applies (p : Params) (w : BitVec 11) (r : RxRow) : Bool :=
  (w &&& r.mask) == r.pattern && (!r.needsEndMarker || p.endMarker)

/-- The table of R51, in its order. -/
def rxTable : List RxRow :=
  [⟨0x099#11, 0x7FF#11, false⟩, ⟨0x097#11, 0x7FF#11, true⟩, ⟨0x000#11, 0x700#11, false⟩,
   ⟨0x100#11, 0x700#11, false⟩, ⟨0x200#11, 0x700#11, false⟩, ⟨0x300#11, 0x700#11, false⟩,
   ⟨0x498#11, 0x7FF#11, false⟩, ⟨0x499#11, 0x7FF#11, false⟩, ⟨0x400#11, 0x700#11, false⟩,
   ⟨0x500#11, 0x700#11, false⟩, ⟨0x600#11, 0x600#11, false⟩]

/-- The row of an instruction in the opcode table: decode space, match and mask, in table order. -/
structure TableRow where
  order : Nat
  pattern : Nat
  mask : Nat
  deriving DecidableEq, Repr

/-- Each constructor's row of spec/opcode_table.json. -/
def Instr.tableRow : Instr → TableRow
  | .rxWfhHdr => ⟨1, 0x099, 0x7FF⟩
  | .rxWfhEnd => ⟨2, 0x097, 0x7FF⟩
  | .rxWfhOof _ => ⟨3, 0x000, 0x700⟩
  | .rxRck _ => ⟨4, 0x100, 0x700⟩
  | .rxRtid _ => ⟨5, 0x200, 0x700⟩
  | .rxRlen _ => ⟨6, 0x300, 0x700⟩
  | .rxRdataEsc => ⟨7, 0x498, 0x7FF⟩
  | .rxRdataHdr => ⟨8, 0x499, 0x7FF⟩
  | .rxRdataByte _ => ⟨9, 0x400, 0x700⟩
  | .rxResc _ => ⟨10, 0x500, 0x700⟩
  | .rxRsvd _ _ => ⟨11, 0x600, 0x600⟩
  | .sendFrame _ _ => ⟨12, 0x000000000, 0x100000000⟩
  | .sendEnd => ⟨13, 0x100000000, 0x100000000⟩
  | .txHdr => ⟨14, 0x1, 0xF⟩
  | .txChkHi => ⟨15, 0x2, 0xF⟩
  | .txChkLo => ⟨16, 0x3, 0xF⟩
  | .txTidHi => ⟨17, 0x4, 0xF⟩
  | .txTidLo => ⟨18, 0x5, 0xF⟩
  | .txLenHi => ⟨19, 0x6, 0xF⟩
  | .txLenLo => ⟨20, 0x7, 0xF⟩
  | .txData => ⟨21, 0x8, 0xF⟩
  | .txDataEsc => ⟨22, 0x9, 0xF⟩
  | .txEndmk => ⟨23, 0xA, 0xF⟩
  | .txRsvdB => ⟨24, 0xB, 0xF⟩
  | .txRsvdC _ => ⟨25, 0xC, 0xC⟩
  | .evtAck => ⟨26, 0b00, 0b11⟩
  | .timeout => ⟨27, 0b01, 0b11⟩
  | .reset => ⟨28, 0b10, 0b11⟩
  | .bufRead _ => ⟨29, 0b11, 0b11⟩

/-- A select word as the number the opcode table matches (BUF_READ's operand is outside it). -/
def SelWord.number : SelWord → Nat
  | .rx w => w.toNat
  | .txCmd c => c.toNat
  | .txEmit e => e.toNat
  | .ctl k _ => k.toNat

/-! ## From the table's numbers to select words (log 12) -/

/-- The control word in bits 1:0, the rest of its byte 0, and `buf_raddr` in the two bytes after. -/
def ctlOfNumber (w : Nat) : Option SelWord :=
  if w % 256 < 4 && w < 2 ^ 24 then some (.ctl (BitVec.ofNat 2 w) (BitVec.ofNat 16 (w / 256)))
  else none

/-- The select word that `nbits` bits numbered as the opcode table numbers them stand for. The table's
words carry no mark of their space, so the width chooses it: 11 or 16 bits are an rx word, 33 or 40 a
command word, 4 an emit word, 2 a control word, 24 a control word with `buf_raddr`. In ONE BYTE both an
emit word and a control word fit; there the first row of the table whose word it is applies, so 1 to 15
are emit words and 0, which no emit row has, is EVT_ACK (log 12). -/
def SelWord.ofNumber (nbits w : Nat) : Option SelWord :=
  if nbits ≤ 2 then (if w < 4 then some (.ctl (BitVec.ofNat 2 w) 0#16) else none)
  else if nbits ≤ 4 then (if w < 16 then some (.txEmit (BitVec.ofNat 4 w)) else none)
  else if nbits ≤ 8 then
    if w = 0 then some (.ctl 0#2 0#16)
    else if w < 16 then some (.txEmit (BitVec.ofNat 4 w))
    else none
  else if nbits ≤ 16 then (if w < 2 ^ 11 then some (.rx (BitVec.ofNat 11 w)) else none)
  else if nbits ≤ 24 then ctlOfNumber w
  else if w < 2 ^ 33 then some (.txCmd (BitVec.ofNat 33 w))
  else none

/-- The decoder on the table's numbers, for a block built with the default parameters of R5. -/
def decodeTableWord (nbits w : Nat) : Option Instr :=
  match SelWord.ofNumber nbits w with
  | none => none
  | some sw =>
    match decode Params.default sw with
    | .ok i => some i
    | .error _ => none

end Sys2Proof
end

