-- ==== Sys2Proof/Machine/Codec.lean ====
section
/-! DEFINITION. The frame codec of 40_frame_codec.md: pure functions, no state. -/

namespace Sys2Proof

/-- The checksum's two accumulators. -/
structure Sums where
  sum1 : Byte
  sum2 : Byte
  deriving DecidableEq, Repr

/-- Both seeds are 0xFF (R60). -/
def Sums.seed : Sums := ⟨0xFF#8, 0xFF#8⟩

/-- One byte: `sum1 <- sum1 + b`, then `sum2 <- sum2 + sum1`, both mod 256 (R60). -/
def Sums.add (a : Sums) (b : Byte) : Sums := ⟨a.sum1 + b, a.sum2 + (a.sum1 + b)⟩

/-- The accumulators after a sequence. -/
def Sums.addAll (a : Sums) (bs : List Byte) : Sums := bs.foldl Sums.add a

/-- `{sum2, sum1}` (R60). -/
def Sums.value (a : Sums) : Half := a.sum2 ++ a.sum1

/-- `checksum(s)`, R60. -/
def checksum (bs : List Byte) : Half := (Sums.seed.addAll bs).value

/-- `is_reserved(b)`, R64, for `END_MARKER_ENABLED = e`. -/
def isReserved (e : Bool) (b : Byte) : Bool := b == HEADER || b == ESCAPE || (e && b == ENDMARK)

/-- What `escape` puts out for one byte (R65). -/
def escapeByte (e : Bool) (b : Byte) : List Byte := if isReserved e b then [ESCAPE, b] else [b]

/-- `escape(s)`, R65. -/
def escape (e : Bool) : List Byte → List Byte
  | [] => []
  | b :: bs => escapeByte e b ++ escape e bs

/-- `unescape(e)`, R67. -/
def unescape : List Byte → List Byte
  | [] => []
  | [b] => [b]
  | b :: c :: bs => if b = ESCAPE then c :: unescape bs else b :: unescape (c :: bs)

/-- The high byte of a 16-bit field, sent first (20_memory.md R36). -/
def hiByte (h : Half) : Byte := h.extractLsb' 8 8

/-- The low byte of a 16-bit field. -/
def loByte (h : Half) : Byte := h.extractLsb' 0 8

/-- The seven header bytes of a frame (30_encoding.md R46). -/
def frameHeader (topic : Half) (payload : List Byte) : List Byte :=
  let c := checksum payload
  let l : Half := BitVec.ofNat 16 payload.length
  [HEADER, hiByte c, loByte c, hiByte topic, loByte topic, hiByte l, loByte l]

/-- `encode_frame(T, P)`, R68. -/
def encodeFrame (e : Bool) (topic : Half) (payload : List Byte) : List Byte :=
  frameHeader topic payload ++ escape e payload

end Sys2Proof
end

