-- ==== Sys2Proof/Machine/State.lean ====
section
/-! DEFINITION. The machine's state as plain data: every register of 10_state.md, the two memories of
20_memory.md, the environment's inputs (00_scope.md R8, R9) and the run's observation (R10). -/

namespace Sys2Proof.Machine

/-- The named faults: all that 60_exceptions.md R120 allows a model, and no other. Each is RECORDED on one
half of the block (93_implementation_defined.md section 1, treatment `fault`), and a later step of that half
stops with it (log 8). -/
inductive Fault where
  /-- Recorded on the RX half by RX_RSVD (41_rx_parser.md R90). Safe: the half stops. -/
  | reservedParserState
  /-- Recorded on the TX half by TX_RSVD (42_tx_serializer.md R114). Safe: the half stops. -/
  | reservedTxPhase
  /-- Recorded on the TX half by a `PayWrite` below `tx_len` while the phase is not IDLE
  (70_reset_and_hazards.md R167, I12). Safe: the half stops where the hardware's frame is undefined. -/
  | payloadChangedDuringSend
  deriving DecidableEq, Repr

/-- Why a step gives an instruction no meaning. -/
inductive Refusal where
  /-- An instruction of the table without a meaning yet. Safe. No arm of `exec` answers it. -/
  | notModelled (mnemonic : String)
  /-- A fetched word that no row of its decode space matches. Raised by `takeAction`. Safe: no fetch
  yields one, since the only such word is phase IDLE's and a TxEmit is not enabled there (R54). -/
  | noDecodeRow
  deriving DecidableEq, Repr

/-- A memory: the cells that have been written, as (address, byte) pairs with strictly rising
addresses. An address with no cell has had no byte written to it. -/
abbrev Memory := List Host.Cell

/-- The RX parser's registers (10_state.md R18 to R23). -/
@[ext]
structure RxRegs where
  /-- `rx_state`, R18. -/
  state : BitVec 3
  /-- `rx_idx`, R19. -/
  idx : BitVec 1
  /-- `rx_chk`, R20. -/
  chk : Half
  /-- `rx_topic`, R21. -/
  topic : Half
  /-- `rx_len`, R22. -/
  len : Half
  /-- `rx_count`, R23. -/
  count : Half
  deriving DecidableEq, Repr

/-- The event registers (10_state.md R26). -/
@[ext]
structure EvtRegs where
  /-- `evt_pending`. -/
  pending : Bool
  /-- `evt_type`. -/
  type : BitVec 2
  /-- `evt_err`. -/
  err : BitVec 3
  /-- `evt_topic`. -/
  topic : Half
  /-- `evt_len`. -/
  len : Half
  /-- `evt_count`. -/
  count : Half
  /-- `evt_byte`. -/
  byte : Byte
  deriving DecidableEq, Repr

/-- The TX serializer's registers (10_state.md R25). -/
@[ext]
structure TxRegs where
  /-- `tx_phase`. -/
  phase : BitVec 4
  /-- `tx_topic`. -/
  topic : Half
  /-- `tx_len`. -/
  len : Half
  /-- `tx_chk`. -/
  chk : Half
  /-- `tx_idx`. -/
  idx : Half
  /-- `tx_hold`. -/
  hold : Byte
  deriving DecidableEq, Repr

/-- One action of 00_scope.md R9, as the environment chooses it. The byte of an RxByte and the word of
a TxCmd come from their ports (`Env`). -/
inductive Action where
  | rxByte
  | evtAck
  | txCmd
  | txEmit
  | timeout
  | reset
  | bufRead (a : Half)
  | payWrite (a : Half) (v : Byte)
  deriving DecidableEq, Repr

/-- The environment's inputs (log 3). -/
@[ext]
structure Env where
  /-- Bytes waiting on the RX byte port, oldest first: the port holds a byte while `rx_ready = 0`. -/
  rxIn : List Byte
  /-- Command words `{op, topic, len}` waiting on the TX command port, oldest first (R103). -/
  cmdIn : List (BitVec 33)
  /-- The actions the run takes, next first. -/
  sched : List Action
  deriving DecidableEq, Repr

/-- An event as the consumer took it: its record (60_exceptions.md R137) and the payload view. -/
@[ext]
structure EventObs where
  type : BitVec 2
  err : BitVec 3
  topic : Half
  len : Half
  count : Half
  byte : Byte
  payload : List Byte
  deriving DecidableEq, Repr

/-- What the environment has seen (00_scope.md R10), and the last answer of the buffer read port. -/
@[ext]
structure Obs where
  /-- The events taken by EvtAck, oldest first. -/
  events : List EventObs
  /-- The bytes taken by TxEmit, oldest first. -/
  txBytes : List Byte
  /-- `buf_raddr` and `buf_rdata` of the last BufRead; `none` before the first (log 7). -/
  bufRead : Option (Half × Byte)
  deriving DecidableEq, Repr

/-- The machine. -/
@[ext]
structure State where
  /-- The build-time parameters; no step writes them (R5, log 2). -/
  params : Params
  /-- The RX parser's registers. -/
  rx : RxRegs
  /-- The RX buffer's written cells (10_state.md R24). -/
  rxBuf : Memory
  /-- The event registers. -/
  evt : EvtRegs
  /-- The TX serializer's registers. -/
  tx : TxRegs
  /-- The payload memory's written cells (20_memory.md R30, R35). -/
  pay : Memory
  /-- The model's own field: names the power-on contents of the two memories (logs 5 and 6). -/
  powerOn : Nat
  /-- The fault recorded on the RX half (log 8). -/
  rxFault : Option Fault
  /-- The fault recorded on the TX half (log 8). -/
  txFault : Option Fault
  /-- The environment's inputs. -/
  env : Env
  /-- The run's observation. -/
  obs : Obs
  deriving DecidableEq, Repr

/-- What a step answers. -/
abbrev Result := Host.Outcome State Fault Refusal

/-- Replace the parser's registers. -/
def State.setRx (s : State) (r : RxRegs) : State := { s with rx := r }
/-- Replace the buffer's cells. -/
def State.setRxBuf (s : State) (m : Memory) : State := { s with rxBuf := m }
/-- Replace the event registers. -/
def State.setEvt (s : State) (e : EvtRegs) : State := { s with evt := e }
/-- Replace the serializer's registers. -/
def State.setTx (s : State) (r : TxRegs) : State := { s with tx := r }
/-- Replace the payload memory's cells. -/
def State.setPay (s : State) (m : Memory) : State := { s with pay := m }
/-- Replace the RX half's recorded fault. -/
def State.setRxFault (s : State) (f : Option Fault) : State := { s with rxFault := f }
/-- Replace the TX half's recorded fault. -/
def State.setTxFault (s : State) (f : Option Fault) : State := { s with txFault := f }
/-- Replace the environment's inputs. -/
def State.setEnv (s : State) (e : Env) : State := { s with env := e }
/-- Replace the observation. -/
def State.setObs (s : State) (o : Obs) : State := { s with obs := o }

/-- The parser's registers at reset (70_reset_and_hazards.md R160): state WFH, the rest 0. -/
def RxRegs.reset : RxRegs := ⟨RxState.wfh, 0#1, 0#16, 0#16, 0#16, 0#16⟩
/-- The event registers at reset (R160). -/
def EvtRegs.reset : EvtRegs := ⟨false, 0#2, 0#3, 0#16, 0#16, 0#16, 0#8⟩
/-- The serializer's registers at reset (R160): phase IDLE, the rest 0. -/
def TxRegs.reset : TxRegs := ⟨TxPhase.idle, 0#16, 0#16, 0#16, 0#16, 0#8⟩

/-- The state a block with parameters `p` is in after its first `Reset` (R162): every register at its
reset value, nothing written to either memory, no input, nothing observed. -/
def State.resetWith (p : Params) : State :=
  { params := p, rx := RxRegs.reset, rxBuf := [], evt := EvtRegs.reset, tx := TxRegs.reset, pay := [],
    powerOn := 0, rxFault := none, txFault := none,
    env := { rxIn := [], cmdIn := [], sched := [] },
    obs := { events := [], txBytes := [], bufRead := none } }

/-- The machine right after reset, with the default parameters of R5. -/
def State.reset : State := State.resetWith Params.default

end Sys2Proof.Machine
end

