-- ==== Sys2Proof/Machine/Operands.lean ====
section
/-! DEFINITION. Operand forms: assembling a 16-bit header field from its bytes (30_encoding.md R48), and
the one-byte reads and writes of the two memories (20_memory.md). -/

namespace Sys2Proof.Machine

/-- `f <- ((f << 8) | zext_16(b))[15:0]` (R48). -/
def shiftIn (f : Half) (b : Byte) : Half := (f <<< (8 : Nat)) ||| b.setWidth 16

/-- The byte written at `a`, if any was. This is the one definition of what an unlisted address reads
as: no byte. The two address spaces give that their own meaning below. -/
def Memory.read : Memory → Nat → Option Byte
  | [], _ => none
  | (b, w) :: r, a => if a = b then some w else Memory.read r a

/-- Write `v` at `a`, keeping the addresses rising. -/
def Memory.write : Memory → Nat → Byte → Memory
  | [], a, v => [(a, v)]
  | (b, w) :: r, a, v =>
    if a < b then (a, v) :: (b, w) :: r
    else if a = b then (a, v) :: r
    else (b, w) :: Memory.write r a v

/-- The canonical form: strictly rising addresses. (No cell can equal what an unlisted address reads
as, which is no byte at all.) -/
def Memory.wf : Memory → Bool
  | [] => true
  | [_] => true
  | c :: d :: r => decide (c.1 < d.1) && Memory.wf (d :: r)

/-- The byte an existing cell of `rx_buf` holds: the last byte stored there, or the free value of a
cell never written (10_state.md R24, I9). -/
def rxCell (s : State) (i : Nat) : Byte :=
  (Memory.read s.rxBuf i).getD (Config.unwrittenRxByte s.powerOn i)

/-- `BufRead(a)`: `buf_rdata` for `buf_raddr = a` (20_memory.md R31). -/
def bufRdata (s : State) (a : Half) : Byte :=
  if a < s.params.maxPacketSize then rxCell s a.toNat else 0x00#8

/-- `rx_buf[0 .. n-1]`, as `complete` reads it. In a state that no run reaches `n` may pass MAX_PACKET_SIZE; an
index without a cell then reads as a cell never written does (log 9). -/
def rxBytes (s : State) (n : Half) : List Byte := (List.range n.toNat).map (rxCell s)

/-- `MemWrite(RXBUF, i, 1, v)`. The spec's writes are always in range (20_memory.md R32); at an index without a
cell, which no run reaches, nothing is written (log 9). -/
def rxWrite (s : State) (i : Half) (v : Byte) : State :=
  s.setRxBuf (if i < s.params.maxPacketSize then Memory.write s.rxBuf i.toNat v else s.rxBuf)

/-- `MemRead(PAY, i, 1)` (20_memory.md R34): the last byte written at `i`, or the free value of a cell
that nothing has written (log 6). -/
def payByte (s : State) (i : Nat) : Byte :=
  (Memory.read s.pay i).getD (Config.unwrittenPayByte s.powerOn i)

/-- `PAY[0 .. n-1]`, as one snapshot (20_memory.md R38). -/
def payBytes (s : State) (n : Nat) : List Byte := (List.range n).map (payByte s)

/-- The payload view of the event record: `rx_buf[0 .. evt_count-1]`, read through `BufRead`
(60_exceptions.md R137). -/
def payloadView (s : State) : List Byte :=
  (List.range s.evt.count.toNat).map fun i => bufRdata s (BitVec.ofNat 16 i)

end Sys2Proof.Machine
end

