-- ==== Sys2Proof/Machine/Flags.lean ====
section
/-! DEFINITION. The status bits and the other port signals derived from state (10_state.md R27, R28). The
block computes no arithmetic flag. -/

namespace Sys2Proof.Machine

/-- `rx_ready = (evt_pending = 0)`. -/
def rxReady (s : State) : Bool := !s.evt.pending

/-- `evt_valid = evt_pending`. -/
def evtValid (s : State) : Bool := s.evt.pending

/-- `cmd_ready = (tx_phase = IDLE)`. -/
def cmdReady (s : State) : Bool := s.tx.phase == TxPhase.idle

/-- `tx_valid = (tx_phase ≠ IDLE)`. -/
def txValid (s : State) : Bool := s.tx.phase != TxPhase.idle

/-- `pay_raddr`: `tx_idx` while the phase is DATA; otherwise not meaningful (log 14). -/
def payRaddr (s : State) : Option Half :=
  if s.tx.phase = TxPhase.data then some s.tx.idx else none

/-- `tx_data`: the byte 42_tx_serializer.md R104 to R113 give for the current phase; `none` in IDLE and
in the reserved phases, which give none (log 14). -/
def txDataOut (s : State) : Option Byte :=
  if s.tx.phase = TxPhase.hdr then some HEADER
  else if s.tx.phase = TxPhase.chkHi then some (hiByte s.tx.chk)
  else if s.tx.phase = TxPhase.chkLo then some (loByte s.tx.chk)
  else if s.tx.phase = TxPhase.tidHi then some (hiByte s.tx.topic)
  else if s.tx.phase = TxPhase.tidLo then some (loByte s.tx.topic)
  else if s.tx.phase = TxPhase.lenHi then some (hiByte s.tx.len)
  else if s.tx.phase = TxPhase.lenLo then some (loByte s.tx.len)
  else if s.tx.phase = TxPhase.data then
    (if isReserved s.params.endMarker (payByte s s.tx.idx.toNat) then some ESCAPE
     else some (payByte s s.tx.idx.toNat))
  else if s.tx.phase = TxPhase.dataEsc then some s.tx.hold
  else if s.tx.phase = TxPhase.endmk then some ENDMARK
  else none

/-- Whether `Timeout` is enabled (60_exceptions.md R146). -/
def timeoutEnabled (s : State) : Bool :=
  s.params.timeoutPresent && s.rx.state != RxState.wfh && !s.evt.pending

end Sys2Proof.Machine
end

