-- ==== Sys2Proof/Machine/Ops.lean ====
section
/-! DEFINITION. The shared operations: loading an event (the block's exception entry) and taking it (the
return), the parser's register updates, storing and completing, emitting a byte, and the enabling
conditions of the actions. -/

namespace Sys2Proof.Machine

/-! ## Events: entry and return (60_exceptions.md section 4) -/

/-- Load the event registers and set `evt_pending` (R139). Every raise and signal goes through here. -/
def loadEvent (type : BitVec 2) (err : BitVec 3) (topic len count : Half) (byte : Byte) (s : State) :
    State :=
  s.setEvt ⟨true, type, err, topic, len, count, byte⟩

/-- `raise K(t, l, c, b)`, R139. -/
def raiseError (k : ErrorKind) (topic len count : Half) (byte : Byte) (s : State) : State :=
  loadEvent EvtType.error k.code topic len count byte s

/-- `signal PACKET(t, l, c, b)`, R139. -/
def signalPacket (topic len count : Half) (byte : Byte) (s : State) : State :=
  loadEvent EvtType.packet 0#3 topic len count byte s

/-- `signal BOUNDARY(b)`, R139. -/
def signalBoundary (byte : Byte) (s : State) : State :=
  loadEvent EvtType.boundary 0#3 0#16 0#16 0#16 byte s

/-- The event the consumer takes: the record and its payload view (R137, 00_scope.md R10). -/
def takenEvent (s : State) : EventObs :=
  ⟨s.evt.type, s.evt.err, s.evt.topic, s.evt.len, s.evt.count, s.evt.byte, payloadView s⟩

/-- The return from an event (R135, R142): `evt_pending <- 0`, the record fields kept; the consumer has
the event. -/
def takeEvent (s : State) : State :=
  (s.setEvt { s.evt with pending := false }).setObs
    { s.obs with events := s.obs.events ++ [takenEvent s] }

/-! ## The parser's register updates -/

/-- `enter_wfh()`, 41_rx_parser.md R78. -/
def enterWfh (s : State) : State :=
  s.setRx ⟨RxState.wfh, 0#1, 0#16, 0#16, 0#16, 0#16⟩

/-- `start_frame()`, R79. -/
def startFrame (s : State) : State :=
  s.setRx ⟨RxState.rck, 0#1, 0#16, 0#16, 0#16, 0#16⟩

/-- The event `complete` dispatches for the assembled payload `bytes` (R92). -/
def dispatchFrame (bytes : List Byte) (b : Byte) (s : State) : State :=
  if checksum bytes = s.rx.chk then signalPacket s.rx.topic s.rx.len s.rx.len b s
  else raiseError .checksumMismatch s.rx.topic s.rx.len s.rx.len b s

/-- `complete(b)`, R92. -/
def complete (b : Byte) (s : State) : State :=
  enterWfh (dispatchFrame (rxBytes s s.rx.len) b s)

/-- `store(b)`, R91, once the byte is written: count it, and complete the frame if it was the last. -/
def countStored (b : Byte) (s : State) : State :=
  if s.rx.count + 1#16 = s.rx.len then
    complete b (s.setRx { s.rx with state := RxState.rdata, count := s.rx.count + 1#16 })
  else s.setRx { s.rx with state := RxState.rdata, count := s.rx.count + 1#16 }

/-- `store(b)`, R91. Its address is `rx_count`, and the guard comes before the write. (`rx_state <- RDATA`
is in `countStored`; on the guard's path `enter_wfh()` overwrites it.) -/
def store (b : Byte) (s : State) : State :=
  if s.rx.len ≤ s.rx.count then
    enterWfh (raiseError .bufferOverflow s.rx.topic s.rx.len s.rx.count b s)
  else countStored b (rxWrite s s.rx.count b)

/-! ## The serializer -/

/-- `emit(b)`: the byte this TxEmit step transfers (00_scope.md R12). -/
def emit (b : Byte) (s : State) : State :=
  s.setObs { s.obs with txBytes := s.obs.txBytes ++ [b] }

/-- `tx_phase <- ph`. -/
def setPhase (ph : BitVec 4) (s : State) : State := s.setTx { s.tx with phase := ph }

/-- `tx_idx <- tx_idx + 1 ; if tx_idx = tx_len then tx_phase <- IDLE else tx_phase <- DATA`, comparing
the incremented value (42_tx_serializer.md R111, R112). -/
def nextPayloadByte (s : State) : State :=
  let i := s.tx.idx + 1#16
  s.setTx { s.tx with idx := i, phase := if i = s.tx.len then TxPhase.idle else TxPhase.data }

/-! ## Enabling (00_scope.md R9) and recorded faults (93_implementation_defined.md section 1) -/

/-- An enabled step of the RX half: stops with the fault recorded on that half, if one is. -/
def onRxHalf (s : State) (body : Result) : Result :=
  match s.rxFault with
  | some f => .fault f
  | none => body

/-- An enabled step of the TX half: stops with the fault recorded on that half, if one is. -/
def onTxHalf (s : State) (body : Result) : Result :=
  match s.txFault with
  | some f => .fault f
  | none => body

/-- An RxByte step is enabled only when `evt_pending = 0`. While it is not, no transfer happens and
nothing changes, with or without a recorded fault: the port holds the byte (20_memory.md R40, logs 8 and
10). -/
def rxByteStep (s : State) (body : Result) : Result :=
  if rxReady s then onRxHalf s body else .next s

/-- A Timeout that is not enabled has no effect (60_exceptions.md R146). MODEL'S CHOICE (logs 8 and 11): so too in a
block without the option (R147), and with a fault recorded on the RX half. -/
def timeoutStep (s : State) (body : Result) : Result :=
  if timeoutEnabled s then onRxHalf s body else .next s

/-- A TxCmd step is enabled only when `tx_phase = IDLE`. While it is not, the command is not accepted
and nothing changes, with or without a recorded fault: it waits on the port (42_tx_serializer.md R103, logs 8
and 10). -/
def txCmdStep (s : State) (body : Result) : Result :=
  if cmdReady s then onTxHalf s body else .next s

/-- A TxEmit step is enabled only when `tx_phase ≠ IDLE`; otherwise `tx_valid = 0` and there is no
transfer, with or without a recorded fault (logs 8 and 10). -/
def txEmitStep (s : State) (body : Result) : Result :=
  if txValid s then onTxHalf s body else .next s

/-- Record a fault on the RX half. -/
def recordRxFault (f : Fault) (s : State) : State := s.setRxFault (some f)

/-- Record a fault on the TX half. -/
def recordTxFault (f : Fault) (s : State) : State := s.setTxFault (some f)

end Sys2Proof.Machine
end

