-- ==== Sys2Proof/Machine/Control.lean ====
section
/-! DEFINITION. The meanings of the ctl rows, and PayWrite, the one action without a row. -/

namespace Sys2Proof.Machine

/-- 60_exceptions.md R142. An acknowledge with nothing pending is not a transfer and has no effect. -/
def execEvtAck (s : State) : Result :=
  if evtValid s then .next (takeEvent s) else .next s

/-- 60_exceptions.md R146. A strobe while it is not enabled has no effect, whatever is recorded on the RX half;
an enabled one is a step of the RX half and stops with a fault recorded there (the model's choices: logs 8 and
11). -/
def execTimeout (s : State) : Result :=
  timeoutStep s (.next
    (enterWfh (raiseError .incompletePacket s.rx.topic s.rx.len s.rx.count 0x00#8 s)))

/-- 70_reset_and_hazards.md R160: every register to its reset value, both halves' recorded faults
dropped (R132, log 8); `rx_buf`, `PAY`, the ports and what was observed stay. -/
def execReset (s : State) : Result :=
  .next (((((s.setRx RxRegs.reset).setEvt EvtRegs.reset).setTx TxRegs.reset).setRxFault none).setTxFault
    none)

/-- 20_memory.md R31: no register or memory cell changes; the environment has `buf_rdata` (log 7). -/
def execBufRead (a : Half) (s : State) : Result :=
  .next (s.setObs { s.obs with bufRead := some (a, bufRdata s a) })

/-- Whether a `PayWrite` to `a` breaks the stability duty (20_memory.md R35, read literally: log 15). -/
def payWriteBreaks (a : Half) (s : State) : Bool := txValid s && decide (a < s.tx.len)

/-- `PayWrite(a, v)`: `PAY[a] <- v` (20_memory.md R35). Where it breaks the stability duty, the fault
PayloadChangedDuringSend is recorded on the TX half (70_reset_and_hazards.md R167, I12), which keeps
the first fault it has. -/
def execPayWrite (a : Half) (v : Byte) (s : State) : Result :=
  let s1 := s.setPay (Memory.write s.pay a.toNat v)
  if payWriteBreaks a s then
    .next (s1.setTxFault (some (s.txFault.getD .payloadChangedDuringSend)))
  else .next s1

end Sys2Proof.Machine
end

