-- ==== Sys2Proof/Machine/RxParser.lean ====
section
/-! DEFINITION. The meanings of the rx rows (41_rx_parser.md section 2). -/

namespace Sys2Proof.Machine

/-- R80. -/
def execRxWfhHdr (s : State) : Result := rxByteStep s (.next (startFrame s))

/-- R81. `rx_state` is unchanged. -/
def execRxWfhEnd (s : State) : Result := rxByteStep s (.next (signalBoundary ENDMARK s))

/-- R82. `rx_state` is unchanged. -/
def execRxWfhOof (b : Byte) (s : State) : Result :=
  rxByteStep s (.next (raiseError .outOfFrameByte 0#16 0#16 0#16 b s))

/-- R83. -/
def execRxRck (b : Byte) (s : State) : Result :=
  rxByteStep s (.next (s.setRx (
    if s.rx.idx = 0#1 then { s.rx with chk := shiftIn s.rx.chk b, idx := 1#1 }
    else { s.rx with chk := shiftIn s.rx.chk b, idx := 0#1, state := RxState.rtid })))

/-- R84. -/
def execRxRtid (b : Byte) (s : State) : Result :=
  rxByteStep s (.next (s.setRx (
    if s.rx.idx = 0#1 then { s.rx with topic := shiftIn s.rx.topic b, idx := 1#1 }
    else { s.rx with topic := shiftIn s.rx.topic b, idx := 0#1, state := RxState.rlen })))

/-- R85, once the field is `l`. The overflow test comes before the zero-length completion
(60_exceptions.md R131). -/
def lengthByte (l : Half) (b : Byte) (s : State) : State :=
  if s.rx.idx = 0#1 then s.setRx { s.rx with len := l, idx := 1#1 }
  else if s.params.maxPacketSize < l then
    enterWfh (raiseError .bufferOverflow s.rx.topic l 0#16 b s)
  else if l = 0#16 then complete b (s.setRx { s.rx with len := l, idx := 0#1 })
  else s.setRx { s.rx with len := l, idx := 0#1, state := RxState.rdata }

/-- R85. -/
def execRxRlen (b : Byte) (s : State) : Result :=
  rxByteStep s (.next (lengthByte (shiftIn s.rx.len b) b s))

/-- R86. -/
def execRxRdataEsc (s : State) : Result :=
  rxByteStep s (.next (s.setRx { s.rx with state := RxState.resc }))

/-- R87. -/
def execRxRdataHdr (s : State) : Result :=
  rxByteStep s (.next (startFrame
    (raiseError .unexpectedHeader s.rx.topic s.rx.len s.rx.count HEADER s)))

/-- R88. -/
def execRxRdataByte (b : Byte) (s : State) : Result := rxByteStep s (.next (store b s))

/-- R89. The strict-escape test comes before the store (60_exceptions.md R131). -/
def execRxResc (b : Byte) (s : State) : Result :=
  rxByteStep s (.next (
    if s.params.strictEscape && !isReserved s.params.endMarker b then
      enterWfh (raiseError .unknownError s.rx.topic s.rx.len s.rx.count b s)
    else store b s))

/-- R90: the fault ReservedParserState is recorded, and the RX half takes no further step. Neither the
state's low bit nor the byte matters. -/
def execRxRsvd (_lo : BitVec 1) (_b : Byte) (s : State) : Result :=
  rxByteStep s (.next (recordRxFault .reservedParserState s))

end Sys2Proof.Machine
end

