-- ==== Sys2Proof/Machine/TxCommand.lean ====
section
/-! DEFINITION. The meanings of the tx_cmd rows (42_tx_serializer.md section 2). -/

namespace Sys2Proof.Machine

/-- R101. The checksum is over one snapshot of `PAY[0 .. cmd_len-1]`; the length is not checked. -/
def execSendFrame (topic len : Half) (s : State) : Result :=
  txCmdStep s (.next (s.setTx
    { phase := TxPhase.hdr, topic := topic, len := len, chk := checksum (payBytes s len.toNat),
      idx := 0#16, hold := 0#8 }))

/-- R102. Accepted with no effect when there is no END marker. -/
def execSendEnd (s : State) : Result :=
  txCmdStep s (if s.params.endMarker then .next (setPhase TxPhase.endmk s) else .next s)

end Sys2Proof.Machine
end

