-- ==== Sys2Proof/Machine/TxEmit.lean ====
section
/-! DEFINITION. The meanings of the tx_emit rows (42_tx_serializer.md section 3). -/

namespace Sys2Proof.Machine

/-- R104. -/
def execTxHdr (s : State) : Result :=
  txEmitStep s (.next (setPhase TxPhase.chkHi (emit HEADER s)))

/-- R105. -/
def execTxChkHi (s : State) : Result :=
  txEmitStep s (.next (setPhase TxPhase.chkLo (emit (hiByte s.tx.chk) s)))

/-- R106. -/
def execTxChkLo (s : State) : Result :=
  txEmitStep s (.next (setPhase TxPhase.tidHi (emit (loByte s.tx.chk) s)))

/-- R107. -/
def execTxTidHi (s : State) : Result :=
  txEmitStep s (.next (setPhase TxPhase.tidLo (emit (hiByte s.tx.topic) s)))

/-- R108. -/
def execTxTidLo (s : State) : Result :=
  txEmitStep s (.next (setPhase TxPhase.lenHi (emit (loByte s.tx.topic) s)))

/-- R109. -/
def execTxLenHi (s : State) : Result :=
  txEmitStep s (.next (setPhase TxPhase.lenLo (emit (hiByte s.tx.len) s)))

/-- R110. -/
def execTxLenLo (s : State) : Result :=
  txEmitStep s (.next (setPhase (if s.tx.len = 0#16 then TxPhase.idle else TxPhase.data)
    (emit (loByte s.tx.len) s)))

/-- R111. -/
def execTxData (s : State) : Result :=
  txEmitStep s (.next (
    let v := payByte s s.tx.idx.toNat
    if isReserved s.params.endMarker v then
      (emit ESCAPE s).setTx { s.tx with hold := v, phase := TxPhase.dataEsc }
    else nextPayloadByte (emit v s)))

/-- R112. -/
def execTxDataEsc (s : State) : Result :=
  txEmitStep s (.next (nextPayloadByte (emit s.tx.hold s)))

/-- R113. -/
def execTxEndmk (s : State) : Result :=
  txEmitStep s (.next (setPhase TxPhase.idle (emit ENDMARK s)))

/-- R114, phase 11: the fault ReservedTxPhase is recorded, and the TX half takes no further step. -/
def execTxRsvdB (s : State) : Result :=
  txEmitStep s (.next (recordTxFault .reservedTxPhase s))

/-- R114, phases 12 to 15: as phase 11, whichever of them it is. -/
def execTxRsvdC (_lo : BitVec 2) (s : State) : Result :=
  txEmitStep s (.next (recordTxFault .reservedTxPhase s))

end Sys2Proof.Machine
end

