-- ==== Sys2Proof/Machine/Dispatch.lean ====
section
/-! DEFINITION. One arm per constructor of Instr, each a call of its meaning. -/

namespace Sys2Proof.Machine

def exec (i : Instr) (s : State) : Host.Outcome State Fault Refusal :=
  match i with
  | .rxWfhHdr => Sys2Proof.Machine.execRxWfhHdr s
  | .rxWfhEnd => Sys2Proof.Machine.execRxWfhEnd s
  | .rxWfhOof b => Sys2Proof.Machine.execRxWfhOof b s
  | .rxRck b => Sys2Proof.Machine.execRxRck b s
  | .rxRtid b => Sys2Proof.Machine.execRxRtid b s
  | .rxRlen b => Sys2Proof.Machine.execRxRlen b s
  | .rxRdataEsc => Sys2Proof.Machine.execRxRdataEsc s
  | .rxRdataHdr => Sys2Proof.Machine.execRxRdataHdr s
  | .rxRdataByte b => Sys2Proof.Machine.execRxRdataByte b s
  | .rxResc b => Sys2Proof.Machine.execRxResc b s
  | .rxRsvd lo b => Sys2Proof.Machine.execRxRsvd lo b s
  | .sendFrame topic len => Sys2Proof.Machine.execSendFrame topic len s
  | .sendEnd => Sys2Proof.Machine.execSendEnd s
  | .txHdr => Sys2Proof.Machine.execTxHdr s
  | .txChkHi => Sys2Proof.Machine.execTxChkHi s
  | .txChkLo => Sys2Proof.Machine.execTxChkLo s
  | .txTidHi => Sys2Proof.Machine.execTxTidHi s
  | .txTidLo => Sys2Proof.Machine.execTxTidLo s
  | .txLenHi => Sys2Proof.Machine.execTxLenHi s
  | .txLenLo => Sys2Proof.Machine.execTxLenLo s
  | .txData => Sys2Proof.Machine.execTxData s
  | .txDataEsc => Sys2Proof.Machine.execTxDataEsc s
  | .txEndmk => Sys2Proof.Machine.execTxEndmk s
  | .txRsvdB => Sys2Proof.Machine.execTxRsvdB s
  | .txRsvdC lo => Sys2Proof.Machine.execTxRsvdC lo s
  | .evtAck => Sys2Proof.Machine.execEvtAck s
  | .timeout => Sys2Proof.Machine.execTimeout s
  | .reset => Sys2Proof.Machine.execReset s
  | .bufRead a => Sys2Proof.Machine.execBufRead a s

end Sys2Proof.Machine
end

