-- ==== Sys2Proof/Machine/Fetch.lean ====
section
/-! DEFINITION. Taking one action of 00_scope.md R9: reading its select word off the machine and its ports,
decoding it, executing the row. -/

namespace Sys2Proof.Machine

/-- The select word of an action and the state its row runs in: a transferred byte or command has left
its port. `none` where there is no transfer: an empty port, a port that is not ready, or no byte to emit.
A PayWrite has no row (`takeAction` takes it directly). -/
def fetch (a : Action) (s : State) : Option (SelWord × State) :=
  match a with
  | .rxByte =>
    match s.env.rxIn with
    | [] => none
    | b :: bs =>
      if rxReady s then some (.rx (rxWord s.rx.state b), s.setEnv { s.env with rxIn := bs }) else none
  | .txCmd =>
    match s.env.cmdIn with
    | [] => none
    | c :: cs => if cmdReady s then some (.txCmd c, s.setEnv { s.env with cmdIn := cs }) else none
  | .txEmit => if txValid s then some (.txEmit s.tx.phase, s) else none
  | .evtAck => some (.ctl 0b00#2 0#16, s)
  | .timeout => some (.ctl 0b01#2 0#16, s)
  | .reset => some (.ctl 0b10#2 0#16, s)
  | .bufRead addr => some (.ctl 0b11#2 addr, s)
  | .payWrite _ _ => none

/-- Decode a fetched word and execute its row. -/
def runWord (w : SelWord) (s : State) : Result :=
  match decode s.params w with
  | .ok i => exec i s
  | .error _ => .refused .noDecodeRow

/-- Fetch and run; where there is no transfer nothing happens. -/
def runAction (a : Action) (s : State) : Result :=
  match fetch a s with
  | some (w, s1) => runWord w s1
  | none => .next s

/-- Take one action. -/
def takeAction (a : Action) (s : State) : Result :=
  match a with
  | .payWrite addr v => execPayWrite addr v s
  | .rxByte | .evtAck | .txCmd | .txEmit | .timeout | .reset | .bufRead _ => runAction a s

/-- Make `a` the next action. -/
def schedule (a : Action) (s : State) : State :=
  s.setEnv { s.env with sched := a :: s.env.sched }

/-- The action whose control word is `k` (30_encoding.md R55). -/
def ctlAction (k : BitVec 2) (addr : Half) : Action :=
  if k = 0#2 then .evtAck else if k = 1#2 then .timeout else if k = 2#2 then .reset else .bufRead addr

/-- Put a select word where the next step takes it, changing only what that takes (log 12): an rx word's
state goes into `rx_state` and its byte onto the RX port of a block that is ready for it; a command word
onto the command port of an idle serializer; an emit word into `tx_phase`; a control word's action is
scheduled. -/
def placeWord (w : SelWord) (s : State) : State :=
  match w with
  | .rx v =>
    schedule .rxByte (((s.setRx { s.rx with state := rxWordState v }).setEvt
      { s.evt with pending := false }).setEnv { s.env with rxIn := rxWordByte v :: s.env.rxIn })
  | .txCmd c =>
    schedule .txCmd ((setPhase TxPhase.idle s).setEnv { s.env with cmdIn := c :: s.env.cmdIn })
  | .txEmit e => schedule .txEmit (setPhase e s)
  | .ctl k addr => schedule (ctlAction k addr) s

end Sys2Proof.Machine
end

