-- ==== Sys2Proof/Machine/Step.lean ====
section
/-! DEFINITION. One step of the machine: the next action the environment chose (00_scope.md R9). -/

namespace Sys2Proof.Machine

/-- Take the next chosen action; with none chosen, the block waits (log 3). -/
def step (s : State) : Host.Outcome State Fault Refusal :=
  match s.env.sched with
  | [] => .next s
  | a :: rest => takeAction a (s.setEnv { s.env with sched := rest })

/-- `s` with the word that the opcode table numbers `w` placed where the next step takes it. -/
def State.withFetchWord (s : State) (nbits w : Nat) : State :=
  match SelWord.ofNumber nbits w with
  | some sw => placeWord sw s
  | none => s

end Sys2Proof.Machine
end

