-- ==== Sys2Proof/Machine/Stimulus.lean ====
section
/-! DEFINITION. The stimulus notation of 00_scope.md R13: each line as the actions of R9 it stands for. -/

namespace Sys2Proof.Machine

/-- A line of R13. -/
inductive Stimulus where
  | rx (bytes : List Byte)
  | ack
  | rxa (bytes : List Byte)
  | send (topic len : Half)
  | sendend
  | pull (n : Nat)
  | pullAll
  | loop
  | pay (a : Half) (bytes : List Byte)
  | tmo
  | reset
  deriving DecidableEq, Repr

/-- The machine, and the bytes taken by the previous `pull`. -/
structure Bench where
  machine : State
  pulled : List Byte
  deriving DecidableEq, Repr

/-- Offer a byte on the RX port and take one RxByte. MODEL'S CHOICE (log 16): a byte not taken, since an event is
pending, waits on its port for a later line. -/
def offerByte (b : Byte) (s : State) : Result :=
  takeAction .rxByte (s.setEnv { s.env with rxIn := s.env.rxIn ++ [b] })

/-- Offer a command on the command port and take one TxCmd. MODEL'S CHOICE (log 16): a command not taken, since
the serializer is busy, waits on its port for a later line. -/
def offerCmd (c : BitVec 33) (s : State) : Result :=
  takeAction .txCmd (s.setEnv { s.env with cmdIn := s.env.cmdIn ++ [c] })

/-- `rx b0 b1 ...`: stops at the first byte that leaves an event pending. -/
def runRx : List Byte → State → Result
  | [], s => .next s
  | b :: bs, s =>
    match offerByte b s with
    | .next t => if t.evt.pending then .next t else runRx bs t
    | .fault f => .fault f
    | .refused r => .refused r

/-- `rxa b0 b1 ...`: an ack after every byte that leaves an event pending (an ack with nothing pending
has no effect). -/
def runRxa : List Byte → State → Result
  | [], s => .next s
  | b :: bs, s =>
    match offerByte b s with
    | .next t =>
      match takeAction .evtAck t with
      | .next u => runRxa bs u
      | .fault f => .fault f
      | .refused r => .refused r
    | .fault f => .fault f
    | .refused r => .refused r

/-- `pull n`. -/
def runPull : Nat → State → Result
  | 0, s => .next s
  | n + 1, s =>
    match takeAction .txEmit s with
    | .next t => runPull n t
    | .fault f => .fault f
    | .refused r => .refused r

/-- `pay a: b0 b1 ...`: from address `a` upward. MODEL'S CHOICE (log 16): a line that runs past address 65535
goes on at address 0; R13 does not say what follows the last address. -/
def runPay (a : Half) : List Byte → State → Result
  | [], s => .next s
  | b :: bs, s =>
    match takeAction (.payWrite a b) s with
    | .next t => runPay (a + 1#16) bs t
    | .fault f => .fault f
    | .refused r => .refused r

/-- Enough TxEmit steps to reach IDLE from any phase: a TxEmit in IDLE changes nothing. -/
def pullBound (s : State) : Nat := 8 + 2 * s.tx.len.toNat

/-- Keep `pulled` beside the machine. -/
def Bench.after (pulled : List Byte) (r : Result) : Host.Outcome Bench Fault Refusal :=
  match r with
  | .next t => .next ⟨t, pulled⟩
  | .fault f => .fault f
  | .refused r => .refused r

/-- The bytes emitted since `before` are the new `pulled`. -/
def Bench.afterPull (before : State) (r : Result) : Host.Outcome Bench Fault Refusal :=
  match r with
  | .next t => .next ⟨t, t.obs.txBytes.drop before.obs.txBytes.length⟩
  | .fault f => .fault f
  | .refused r => .refused r

/-- Run one line. -/
def Stimulus.run (l : Stimulus) (b : Bench) : Host.Outcome Bench Fault Refusal :=
  match l with
  | .rx bytes => Bench.after b.pulled (runRx bytes b.machine)
  | .ack => Bench.after b.pulled (takeAction .evtAck b.machine)
  | .rxa bytes => Bench.after b.pulled (runRxa bytes b.machine)
  | .send topic len => Bench.after b.pulled (offerCmd (txCmdWord 0#1 topic len) b.machine)
  | .sendend => Bench.after b.pulled (offerCmd (txCmdWord 1#1 0#16 0#16) b.machine)
  | .pull n => Bench.afterPull b.machine (runPull n b.machine)
  | .pullAll => Bench.afterPull b.machine (runPull (pullBound b.machine) b.machine)
  | .loop => Bench.after b.pulled (runRxa b.pulled b.machine)
  | .pay a bytes => Bench.after b.pulled (runPay a bytes b.machine)
  | .tmo => Bench.after b.pulled (takeAction .timeout b.machine)
  | .reset => Bench.after b.pulled (takeAction .reset b.machine)

/-- Run a program, line by line. -/
def runProgram : List Stimulus → Bench → Host.Outcome Bench Fault Refusal
  | [], b => .next b
  | l :: ls, b =>
    match l.run b with
    | .next b' => runProgram ls b'
    | .fault f => .fault f
    | .refused r => .refused r

/-- The pseudo-instruction `frame T, P` of a peer with `END_MARKER_ENABLED = e`. -/
def Stimulus.frame (e : Bool) (topic : Half) (payload : List Byte) : List Stimulus :=
  [.rx (encodeFrame e topic payload)]

/-- The pseudo-instruction `txframe T, P`. -/
def Stimulus.txframe (topic : Half) (payload : List Byte) : List Stimulus :=
  [.pay 0#16 payload, .send topic (BitVec.ofNat 16 payload.length), .pullAll]

end Sys2Proof.Machine
end

