-- ==== Sys2Proof/Safety.lean ====
section
/-! DEFINITION. What holds of every state a run from reset reaches, and the terms in which statements about
runs are made. -/

namespace Sys2Proof.Machine

/-- The parser states that receive a header field. -/
def headerState (st : BitVec 3) : Bool :=
  st == RxState.rck || st == RxState.rtid || st == RxState.rlen

/-- The parser states that receive the payload. -/
def payloadState (st : BitVec 3) : Bool := st == RxState.rdata || st == RxState.resc

/-- The phases that send the seven header bytes. -/
def headerPhase (ph : BitVec 4) : Bool := decide (1#4 ≤ ph) && decide (ph ≤ 7#4)

/-- The parser's registers are legal for its state. -/
structure RxInv (s : State) : Prop where
  /-- Codes 6 and 7 are never written (41_rx_parser.md R77). -/
  state_legal : s.rx.state ≤ RxState.resc
  /-- `rx_idx` is 0 outside the header states (10_state.md R19). -/
  idx_zero : headerState s.rx.state = false → s.rx.idx = 0#1
  /-- `enter_wfh()` leaves every accumulator 0 (R78). -/
  wfh_clear : s.rx.state = RxState.wfh →
    s.rx.chk = 0#16 ∧ s.rx.topic = 0#16 ∧ s.rx.len = 0#16 ∧ s.rx.count = 0#16
  /-- No payload byte is stored while the header is received. -/
  header_count : headerState s.rx.state = true → s.rx.count = 0#16
  /-- Each field is assembled from 0 (30_encoding.md R48): the checksum. -/
  chk_from_zero : s.rx.state = RxState.rck →
    (s.rx.idx = 0#1 → s.rx.chk = 0#16) ∧ s.rx.topic = 0#16 ∧ s.rx.len = 0#16
  /-- R48: the topic id. -/
  topic_from_zero : s.rx.state = RxState.rtid →
    (s.rx.idx = 0#1 → s.rx.topic = 0#16) ∧ s.rx.len = 0#16
  /-- R48: the length. -/
  len_from_zero : s.rx.state = RxState.rlen → s.rx.idx = 0#1 → s.rx.len = 0#16
  /-- `rx_count < rx_len <= MAX_PACKET_SIZE` (10_state.md R23). -/
  payload_bound : payloadState s.rx.state = true →
    s.rx.count < s.rx.len ∧ s.rx.len ≤ s.params.maxPacketSize
  /-- The frame's bytes so far have been written. -/
  written : ∀ i, i < s.rx.count.toNat → (Memory.read s.rxBuf i).isSome = true
  /-- No reserved state, so no recorded fault. -/
  no_fault : s.rxFault = none

/-- The event registers are legal. -/
structure EvtInv (s : State) : Prop where
  /-- Event type 3 is never written (30_encoding.md R56). -/
  type_legal : s.evt.type ≠ 3#2
  /-- Error codes 6 and 7 are never written (R57). -/
  err_legal : s.evt.err ≤ 5#3
  /-- `evt_err = 0` when the event is not an error (R57). -/
  err_zero : s.evt.type ≠ EvtType.error → s.evt.err = 0#3
  /-- The event's payload lies in the buffer. -/
  count_bound : s.evt.count ≤ s.params.maxPacketSize
  /-- The event's payload has been written. -/
  written : ∀ i, i < s.evt.count.toNat → (Memory.read s.rxBuf i).isSome = true
  /-- A pending event was left in WFH, or in RCK with a new frame begun (60_exceptions.md R135). -/
  resume : s.evt.pending = true →
    s.rx.state = RxState.wfh ∨ (s.rx.state = RxState.rck ∧ s.rx.idx = 0#1)

/-- The serializer's registers are legal for its phase. -/
structure TxInv (s : State) : Prop where
  /-- Codes 11 to 15 are never written (42_tx_serializer.md R114). -/
  phase_legal : s.tx.phase ≤ TxPhase.endmk
  /-- No payload byte has gone out while the header is sent. -/
  header_idx : headerPhase s.tx.phase = true → s.tx.idx = 0#16
  /-- A payload byte is left to send. -/
  payload_bound : (s.tx.phase = TxPhase.data ∨ s.tx.phase = TxPhase.dataEsc) → s.tx.idx < s.tx.len
  /-- The byte after an ESCAPE is a reserved one. -/
  hold_reserved : s.tx.phase = TxPhase.dataEsc → isReserved s.params.endMarker s.tx.hold = true
  /-- ENDMK is reached only with END markers (R113). -/
  endmk_enabled : s.tx.phase = TxPhase.endmk → s.params.endMarker = true
  /-- The only fault a run records on this half (70_reset_and_hazards.md R167). -/
  fault_legal : s.txFault = none ∨ s.txFault = some .payloadChangedDuringSend

/-- The memories are in canonical form and inside their address spaces (20_memory.md R30). -/
structure MemInv (s : State) : Prop where
  rxBuf_wf : Memory.wf s.rxBuf = true
  pay_wf : Memory.wf s.pay = true
  rxBuf_range : ∀ c ∈ s.rxBuf, c.1 < s.params.maxPacketSize.toNat
  pay_range : ∀ c ∈ s.pay, c.1 < 65536

/-- The invariant: true at reset, kept by every step. -/
structure Inv (s : State) : Prop where
  mem : MemInv s
  rx : RxInv s
  evt : EvtInv s
  tx : TxInv s

/-! ## Terms for statements about runs -/

/-- The next action, as `step` sees it. -/
def nextAction (s : State) : Option Action := s.env.sched.head?

/-- Drop the next action from the environment's choices. -/
def dropAction (s : State) : State := s.setEnv { s.env with sched := s.env.sched.tail }

/-- Change the state of an outcome that has one. -/
def mapNext (f : State → State) : Result → Result
  | .next t => .next (f t)
  | .fault r => .fault r
  | .refused r => .refused r

/-- The event registers a completed frame loads: PACKET if the checksum of its assembled payload is the
one received, else ERROR ChecksumMismatch (41_rx_parser.md R92, 60_exceptions.md R140). -/
def frameEvent (payload : List Byte) (chk topic len : Half) (b : Byte) : EvtRegs :=
  if checksum payload = chk then ⟨true, EvtType.packet, 0#3, topic, len, len, b⟩
  else ⟨true, EvtType.error, ErrorKind.checksumMismatch.code, topic, len, len, b⟩

/-- The environment feeds `bytes` one at a time, with an acknowledge after each byte. (An acknowledge
with nothing pending has no effect, so this is the `rxa` of 00_scope.md R13.) -/
def feedAcked (bytes : List Byte) (s : State) : State :=
  s.setEnv { rxIn := bytes, cmdIn := s.env.cmdIn,
             sched := bytes.flatMap fun _ => [Action.rxByte, Action.evtAck] }

/-- The environment offers one command and then takes `n` emitted bytes. -/
def sendAndPull (c : BitVec 33) (n : Nat) (s : State) : State :=
  s.setEnv { rxIn := s.env.rxIn, cmdIn := [c], sched := Action.txCmd :: List.replicate n Action.txEmit }

/-- The escaped form of `PAY[i .. i+n-1]`. -/
def escapedPay (s : State) (i n : Nat) : List Byte :=
  escape s.params.endMarker ((List.range' i n).map (payByte s))

/-- The seven header bytes of the frame the serializer's registers describe. -/
def txHeader (s : State) : List Byte :=
  [HEADER, hiByte s.tx.chk, loByte s.tx.chk, hiByte s.tx.topic, loByte s.tx.topic, hiByte s.tx.len,
   loByte s.tx.len]

/-- The bytes the serializer has still to emit before it is IDLE, if `PAY` stays as it is. -/
def bytesToEmit (s : State) : List Byte :=
  if headerPhase s.tx.phase then
    (txHeader s).drop (s.tx.phase.toNat - 1) ++ escapedPay s 0 s.tx.len.toNat
  else if s.tx.phase = TxPhase.data then
    escapedPay s s.tx.idx.toNat (s.tx.len.toNat - s.tx.idx.toNat)
  else if s.tx.phase = TxPhase.dataEsc then
    s.tx.hold :: escapedPay s (s.tx.idx.toNat + 1) (s.tx.len.toNat - s.tx.idx.toNat - 1)
  else if s.tx.phase = TxPhase.endmk then [ENDMARK]
  else []

end Sys2Proof.Machine
end

