-- ==== Sys2Proof/Certificates/Slice0/Obligations.lean ====
section
/-! DEFINITION. The statements for the provers. Each docstring names the rule of spec/ it formalises, or says
that it rests on a choice of the model and names the log entry. -/

open Sys2Proof Sys2Proof.Machine

/-! ## Encoding -/

/-- 30_encoding.md R51, R52, R54, R55: words written out from the tables, in the default block and, for
0x97 in WFH, in a block without END markers. -/
def Obligations.DecodeOfSpecWords : Prop :=
  decode Params.default (.rx 0b00010011001#11) = .ok .rxWfhHdr ∧
  decode Params.default (.rx 0b00010010111#11) = .ok .rxWfhEnd ∧
  decode { Params.default with endMarker := false } (.rx 0b00010010111#11)
    = .ok (.rxWfhOof 0x97#8) ∧
  decode Params.default (.rx 0x139#11) = .ok (.rxRck 0x39#8) ∧
  decode Params.default (.rx 0x498#11) = .ok .rxRdataEsc ∧
  decode Params.default (.rx 0x497#11) = .ok (.rxRdataByte 0x97#8) ∧
  decode Params.default (.rx 0b11100000101#11) = .ok (.rxRsvd 1#1 0x05#8) ∧
  decode Params.default (.txCmd 0x001020004#33) = .ok (.sendFrame 0x0102#16 0x0004#16) ∧
  decode Params.default (.txCmd 0x1FFFFFFFF#33) = .ok .sendEnd ∧
  decode Params.default (.txEmit 0xA#4) = .ok .txEndmk ∧
  decode Params.default (.txEmit 0xE#4) = .ok (.txRsvdC 2#2) ∧
  decode Params.default (.txEmit 0x0#4) = .error .idleHasNoRow ∧
  decode Params.default (.ctl 0b10#2 0#16) = .ok .reset

/-- Decoding the encoding of any well-formed instruction, in a block with any parameters, gives it back
with every operand (30_encoding.md R51, R52, R54, R55). -/
def Obligations.DecodeOfEncodeIsIdentity : Prop :=
  ∀ (p : Params) (i : Instr), i.wellFormed p = true → decode p (encode i) = .ok i

/-- 30_encoding.md R51: the rx decoder picks the first row of the table whose mask, match and condition
hold, for every word and every parameter; so some row always does. -/
def Obligations.RxDecodeIsFirstMatchingRow : Prop :=
  ∀ (p : Params) (w : BitVec 11),
    rxTable.findIdx? (RxRow.applies p w) = some ((decodeRx p w).tableRow.order - 1)

/-- What the decoder reads is well-formed, and encodes back to the very word, but for the bits the spec
says are ignored (SEND_END's c[31:0], R52; `buf_raddr` beside another control word, log 12). -/
def Obligations.EncodeOfDecodedWord : Prop :=
  ∀ (p : Params),
    (∀ w, (decodeRx p w).wellFormed p = true ∧ encode (decodeRx p w) = .rx w) ∧
    (∀ c, (decodeTxCmd c).wellFormed p = true ∧
      (c.extractLsb' 32 1 = 0#1 → encode (decodeTxCmd c) = .txCmd c) ∧
      (c.extractLsb' 32 1 = 1#1 → decodeTxCmd c = .sendEnd)) ∧
    (∀ e i, decodeTxEmit e = .ok i → i.wellFormed p = true ∧ encode i = .txEmit e) ∧
    (∀ k a, (decodeCtl k a).wellFormed p = true ∧
      ∃ a', encode (decodeCtl k a) = .ctl k a' ∧ (k = 3#2 → a' = a))

/-! ## The step -/

/-- A step runs the instruction its select word decodes to: the word is `{rx_state, b}` of the byte on a
ready RX port (R51), the command on an idle serializer's port (R52), `tx_phase` (R54), or the control word
(R55). The taken byte or command leaves its port; the chosen action is spent (log 3). -/
def Obligations.StepRunsDecodedInstruction : Prop :=
  ∀ s : State,
    (∀ b bs, nextAction s = some .rxByte → s.env.rxIn = b :: bs → s.evt.pending = false →
      step s = exec (decodeRx s.params (s.rx.state ++ b))
        { s with env := { s.env with rxIn := bs, sched := s.env.sched.tail } }) ∧
    (∀ c cs, nextAction s = some .txCmd → s.env.cmdIn = c :: cs → s.tx.phase = TxPhase.idle →
      step s = exec (decodeTxCmd c)
        { s with env := { s.env with cmdIn := cs, sched := s.env.sched.tail } }) ∧
    (∀ i, nextAction s = some .txEmit → decodeTxEmit s.tx.phase = .ok i →
      step s = exec i (dropAction s)) ∧
    (nextAction s = some .evtAck → step s = exec .evtAck (dropAction s)) ∧
    (nextAction s = some .timeout → step s = exec .timeout (dropAction s)) ∧
    (nextAction s = some .reset → step s = exec .reset (dropAction s)) ∧
    (∀ a, nextAction s = some (.bufRead a) → step s = exec (.bufRead a) (dropAction s)) ∧
    (∀ a v, nextAction s = some (.payWrite a v) → step s = execPayWrite a v (dropAction s))

/-- A step without a transfer changes nothing but the spent choice: the RX port holds its bytes while an
event is pending (20_memory.md R40), a command waits while the serializer is busy (42 R103), and nothing
is emitted in IDLE (00_scope.md R9). With no action chosen the block waits (log 3). -/
def Obligations.PortsHoldWhatIsNotTaken : Prop :=
  ∀ s : State,
    (nextAction s = some .rxByte → (s.evt.pending = true ∨ s.env.rxIn = []) →
      step s = .next (dropAction s)) ∧
    (nextAction s = some .txCmd → (s.tx.phase ≠ TxPhase.idle ∨ s.env.cmdIn = []) →
      step s = .next (dropAction s)) ∧
    (nextAction s = some .txEmit → s.tx.phase = TxPhase.idle → step s = .next (dropAction s)) ∧
    (nextAction s = none → step s = .next s)

/-! ## The RX rows

Each statement gives the row's encoding, then its effect as an equation, which is also the row's frame: every
other field of the state, and every cell of both memories, stays. -/

/-- 41_rx_parser.md R80 with R79. -/
def Obligations.RxWfhHdrStartsFrame : Prop :=
  (∀ p, decodeRx p 0x099#11 = .rxWfhHdr) ∧
  ∀ s : State, s.rxFault = none → s.evt.pending = false →
    exec .rxWfhHdr s = .next { s with rx := ⟨RxState.rck, 0#1, 0#16, 0#16, 0#16, 0#16⟩ }

/-- 41_rx_parser.md R81. -/
def Obligations.RxWfhEndSignalsBoundary : Prop :=
  (∀ p, p.endMarker = true → decodeRx p 0x097#11 = .rxWfhEnd) ∧
  (∀ p, p.endMarker = false → decodeRx p 0x097#11 = .rxWfhOof 0x97#8) ∧
  ∀ s : State, s.rxFault = none → s.evt.pending = false →
    exec .rxWfhEnd s = .next { s with evt := ⟨true, 2#2, 0#3, 0#16, 0#16, 0#16, 0x97#8⟩ }

/-- 41_rx_parser.md R82. -/
def Obligations.RxWfhOofRaisesOutOfFrameByte : Prop :=
  (∀ p b, b ≠ 0x99#8 → (p.endMarker = true → b ≠ 0x97#8) →
    decodeRx p (0b000#3 ++ b) = .rxWfhOof b) ∧
  ∀ (s : State) (b : Byte), s.rxFault = none → s.evt.pending = false →
    exec (.rxWfhOof b) s = .next { s with evt := ⟨true, 1#2, 5#3, 0#16, 0#16, 0#16, b⟩ }

/-- 41_rx_parser.md R83. -/
def Obligations.RxRckAssemblesChecksum : Prop :=
  (∀ p b, decodeRx p (0b001#3 ++ b) = .rxRck b) ∧
  ∀ (s : State) (b : Byte), s.rxFault = none → s.evt.pending = false →
    (s.rx.idx = 0#1 → exec (.rxRck b) s = .next { s with rx :=
      { s.rx with chk := (s.rx.chk <<< (8 : Nat)) ||| b.setWidth 16, idx := 1#1 } }) ∧
    (s.rx.idx = 1#1 → exec (.rxRck b) s = .next { s with rx :=
      { s.rx with
                  chk := (s.rx.chk <<< (8 : Nat)) ||| b.setWidth 16,
                  idx := 0#1,
                  state := RxState.rtid } })

/-- 41_rx_parser.md R84. -/
def Obligations.RxRtidAssemblesTopic : Prop :=
  (∀ p b, decodeRx p (0b010#3 ++ b) = .rxRtid b) ∧
  ∀ (s : State) (b : Byte), s.rxFault = none → s.evt.pending = false →
    (s.rx.idx = 0#1 → exec (.rxRtid b) s = .next { s with rx :=
      { s.rx with topic := (s.rx.topic <<< (8 : Nat)) ||| b.setWidth 16, idx := 1#1 } }) ∧
    (s.rx.idx = 1#1 → exec (.rxRtid b) s = .next { s with rx :=
      { s.rx with
                  topic := (s.rx.topic <<< (8 : Nat)) ||| b.setWidth 16,
                  idx := 0#1,
                  state := RxState.rlen } })

/-- 41_rx_parser.md R85: the first length byte; then a declared length that is too long, zero (R92 over
the empty payload), or accepted. -/
def Obligations.RxRlenChecksLength : Prop :=
  (∀ p b, decodeRx p (0b011#3 ++ b) = .rxRlen b) ∧
  ∀ (s : State) (b : Byte) (l : Half), s.rxFault = none → s.evt.pending = false →
    l = (s.rx.len <<< (8 : Nat)) ||| b.setWidth 16 →
    (s.rx.idx = 0#1 → exec (.rxRlen b) s = .next { s with rx := { s.rx with len := l, idx := 1#1 } }) ∧
    (s.rx.idx = 1#1 → s.params.maxPacketSize < l → exec (.rxRlen b) s = .next { s with
      evt := ⟨true, 1#2, 1#3, s.rx.topic, l, 0#16, b⟩,
      rx := ⟨RxState.wfh, 0#1, 0#16, 0#16, 0#16, 0#16⟩ }) ∧
    (s.rx.idx = 1#1 → l = 0#16 → s.rx.chk = 0xFFFF#16 → exec (.rxRlen b) s = .next { s with
      evt := ⟨true, 0#2, 0#3, s.rx.topic, 0#16, 0#16, b⟩,
      rx := ⟨RxState.wfh, 0#1, 0#16, 0#16, 0#16, 0#16⟩ }) ∧
    (s.rx.idx = 1#1 → l = 0#16 → s.rx.chk ≠ 0xFFFF#16 → exec (.rxRlen b) s = .next { s with
      evt := ⟨true, 1#2, 0#3, s.rx.topic, 0#16, 0#16, b⟩,
      rx := ⟨RxState.wfh, 0#1, 0#16, 0#16, 0#16, 0#16⟩ }) ∧
    (s.rx.idx = 1#1 → l ≠ 0#16 → l ≤ s.params.maxPacketSize → exec (.rxRlen b) s = .next { s with
      rx := { s.rx with len := l, idx := 0#1, state := RxState.rdata } })

/-- 41_rx_parser.md R86. -/
def Obligations.RxRdataEscEntersResc : Prop :=
  (∀ p, decodeRx p 0x498#11 = .rxRdataEsc) ∧
  ∀ s : State, s.rxFault = none → s.evt.pending = false →
    exec .rxRdataEsc s = .next { s with rx := { s.rx with state := RxState.resc } }

/-- 41_rx_parser.md R87. -/
def Obligations.RxRdataHdrResynchronizes : Prop :=
  (∀ p, decodeRx p 0x499#11 = .rxRdataHdr) ∧
  ∀ s : State, s.rxFault = none → s.evt.pending = false →
    exec .rxRdataHdr s = .next { s with
      evt := ⟨true, 1#2, 2#3, s.rx.topic, s.rx.len, s.rx.count, 0x99#8⟩,
      rx := ⟨RxState.rck, 0#1, 0#16, 0#16, 0#16, 0#16⟩ }

/-- 41_rx_parser.md R88 with R91 and R92: the byte is stored at `rx_count`, the only cell that changes;
the byte that brings the count to the declared length completes the frame. The store guard comes first. -/
def Obligations.RxRdataByteStores : Prop :=
  (∀ p b, b ≠ 0x98#8 → b ≠ 0x99#8 → decodeRx p (0b100#3 ++ b) = .rxRdataByte b) ∧
  ∀ (s : State) (b : Byte) (m : Memory), s.rxFault = none → s.evt.pending = false →
    m = Memory.write s.rxBuf s.rx.count.toNat b →
    (s.rx.len ≤ s.rx.count → exec (.rxRdataByte b) s = .next { s with
      evt := ⟨true, 1#2, 1#3, s.rx.topic, s.rx.len, s.rx.count, b⟩,
      rx := ⟨RxState.wfh, 0#1, 0#16, 0#16, 0#16, 0#16⟩ }) ∧
    (s.rx.count < s.rx.len → s.rx.count + 1#16 ≠ s.rx.len → s.rx.count < s.params.maxPacketSize →
      exec (.rxRdataByte b) s = .next { s with
        rxBuf := m,
        rx := { s.rx with state := RxState.rdata, count := s.rx.count + 1#16 } }) ∧
    (s.rx.count < s.rx.len → s.rx.count + 1#16 = s.rx.len → s.rx.len ≤ s.params.maxPacketSize →
      exec (.rxRdataByte b) s = .next { s with
        rxBuf := m,
        evt := frameEvent ((List.range s.rx.len.toNat).map (rxCell { s with rxBuf := m }))
          s.rx.chk s.rx.topic s.rx.len b,
        rx := ⟨RxState.wfh, 0#1, 0#16, 0#16, 0#16, 0#16⟩ }) ∧
    Memory.read m s.rx.count.toNat = some b ∧
    (∀ i, i ≠ s.rx.count.toNat → Memory.read m i = Memory.read s.rxBuf i)

/-- 41_rx_parser.md R89: under the strict policy a byte that is not reserved drops the frame unstored;
otherwise the byte is stored literally, as R91 stores it. -/
def Obligations.RxRescStoresLiterallyOrRejects : Prop :=
  (∀ p b, decodeRx p (0b101#3 ++ b) = .rxResc b) ∧
  ∀ (s : State) (b : Byte) (m : Memory), s.rxFault = none → s.evt.pending = false →
    m = Memory.write s.rxBuf s.rx.count.toNat b →
    (s.params.strictEscape = true → isReserved s.params.endMarker b = false →
      exec (.rxResc b) s = .next { s with
        evt := ⟨true, 1#2, 4#3, s.rx.topic, s.rx.len, s.rx.count, b⟩,
        rx := ⟨RxState.wfh, 0#1, 0#16, 0#16, 0#16, 0#16⟩ }) ∧
    ((s.params.strictEscape = false ∨ isReserved s.params.endMarker b = true) →
      (s.rx.len ≤ s.rx.count → exec (.rxResc b) s = .next { s with
        evt := ⟨true, 1#2, 1#3, s.rx.topic, s.rx.len, s.rx.count, b⟩,
        rx := ⟨RxState.wfh, 0#1, 0#16, 0#16, 0#16, 0#16⟩ }) ∧
      (s.rx.count < s.rx.len → s.rx.count + 1#16 ≠ s.rx.len → s.rx.count < s.params.maxPacketSize →
        exec (.rxResc b) s = .next { s with
          rxBuf := m,
          rx := { s.rx with state := RxState.rdata, count := s.rx.count + 1#16 } }) ∧
      (s.rx.count < s.rx.len → s.rx.count + 1#16 = s.rx.len → s.rx.len ≤ s.params.maxPacketSize →
        exec (.rxResc b) s = .next { s with
          rxBuf := m,
          evt := frameEvent ((List.range s.rx.len.toNat).map (rxCell { s with rxBuf := m }))
            s.rx.chk s.rx.topic s.rx.len b,
          rx := ⟨RxState.wfh, 0#1, 0#16, 0#16, 0#16, 0#16⟩ }))

/-- Model's choice (log 9): 20_memory.md R32 says that every write to RXBUF is in range, and no run reaches a state
in which one is not (`StepKeepsInvariant`). In such a state the storing rows still run as 41_rx_parser.md R91 and
R92 say, with nothing written, since there is no cell. -/
def Obligations.RxStoreOutsideBufferWritesNothing : Prop :=
  ∀ (s : State) (b : Byte), s.rxFault = none → s.evt.pending = false →
    s.rx.count < s.rx.len → s.params.maxPacketSize ≤ s.rx.count →
    (s.rx.count + 1#16 ≠ s.rx.len → exec (.rxRdataByte b) s = .next { s with
      rx := { s.rx with state := RxState.rdata, count := s.rx.count + 1#16 } }) ∧
    (s.rx.count + 1#16 = s.rx.len → exec (.rxRdataByte b) s = .next { s with
      evt := frameEvent ((List.range s.rx.len.toNat).map (rxCell s)) s.rx.chk s.rx.topic s.rx.len b,
      rx := ⟨RxState.wfh, 0#1, 0#16, 0#16, 0#16, 0#16⟩ }) ∧
    ((s.params.strictEscape = false ∨ isReserved s.params.endMarker b = true) →
      exec (.rxResc b) s = exec (.rxRdataByte b) s)

/-- 41_rx_parser.md R90: the fault is recorded on the RX half, and that half's next byte is not taken (the
record's place in State and the stop are the model's form of it, log 8). -/
def Obligations.RxRsvdRecordsReservedParserState : Prop :=
  (∀ p lo b, decodeRx p ((0b11#2 ++ lo) ++ b) = .rxRsvd lo b) ∧
  ∀ (s : State) (lo : BitVec 1) (b b' : Byte), s.rxFault = none → s.evt.pending = false →
    exec (.rxRsvd lo b) s = .next { s with rxFault := some .reservedParserState } ∧
    exec (.rxRsvd lo b') { s with rxFault := some .reservedParserState }
      = .fault .reservedParserState

/-- No rx row does anything while an event is pending: RxByte is not enabled (00_scope.md R9), so nothing
is consumed, stored or raised (60_exceptions.md R136; log 10), whatever is recorded on the half (log 8). -/
def Obligations.RxRowsWaitWhileEventPending : Prop :=
  ∀ (s : State) (b : Byte) (lo : BitVec 1), s.evt.pending = true →
    exec .rxWfhHdr s = .next s ∧ exec .rxWfhEnd s = .next s ∧ exec (.rxWfhOof b) s = .next s ∧
    exec (.rxRck b) s = .next s ∧ exec (.rxRtid b) s = .next s ∧ exec (.rxRlen b) s = .next s ∧
    exec .rxRdataEsc s = .next s ∧ exec .rxRdataHdr s = .next s ∧
    exec (.rxRdataByte b) s = .next s ∧ exec (.rxResc b) s = .next s ∧
    exec (.rxRsvd lo b) s = .next s

/-- A half with a recorded fault takes no further step (93_implementation_defined.md section 1; log 8): its
enabled actions stop with that fault. A Timeout that is not enabled is no step of the half and changes nothing,
fault or not (log 11). -/
def Obligations.RecordedFaultStopsItsHalf : Prop :=
  ∀ (s : State) (f : Fault),
    (s.rxFault = some f → ∀ b bs, nextAction s = some .rxByte → s.env.rxIn = b :: bs →
      s.evt.pending = false → step s = .fault f) ∧
    (s.rxFault = some f → nextAction s = some .timeout → timeoutEnabled s = true →
      step s = .fault f) ∧
    (nextAction s = some .timeout → timeoutEnabled s = false → step s = .next (dropAction s)) ∧
    (s.txFault = some f → ∀ c cs, nextAction s = some .txCmd → s.env.cmdIn = c :: cs →
      s.tx.phase = TxPhase.idle → step s = .fault f) ∧
    (s.txFault = some f → nextAction s = some .txEmit → s.tx.phase ≠ TxPhase.idle →
      step s = .fault f)

/-! ## The TX rows -/

/-- 42_tx_serializer.md R101. -/
def Obligations.SendFrameLoadsSerializer : Prop :=
  (∀ c, c.extractLsb' 32 1 = 0#1 →
    decodeTxCmd c = .sendFrame (c.extractLsb' 16 16) (c.extractLsb' 0 16)) ∧
  ∀ (s : State) (topic len : Half), s.txFault = none → s.tx.phase = TxPhase.idle →
    exec (.sendFrame topic len) s = .next { s with tx :=
      ⟨TxPhase.hdr, topic, len, checksum ((List.range len.toNat).map (payByte s)), 0#16, 0#8⟩ }

/-- 42_tx_serializer.md R102. -/
def Obligations.SendEndStartsMarker : Prop :=
  (∀ c, c.extractLsb' 32 1 = 1#1 → decodeTxCmd c = .sendEnd) ∧
  ∀ s : State, s.txFault = none → s.tx.phase = TxPhase.idle →
    (s.params.endMarker = true →
      exec .sendEnd s = .next { s with tx := { s.tx with phase := TxPhase.endmk } }) ∧
    (s.params.endMarker = false → exec .sendEnd s = .next s)

/-- 42_tx_serializer.md R103: a command presented while the serializer is busy is not accepted, and it
stays on its port. That this holds whatever fault is recorded on the TX half is the model's reading (logs 8
and 10). -/
def Obligations.CommandWaitsWhileBusy : Prop :=
  ∀ s : State, s.tx.phase ≠ TxPhase.idle →
    (∀ topic len, exec (.sendFrame topic len) s = .next s) ∧ exec .sendEnd s = .next s ∧
    (nextAction s = some .txCmd → ∃ t, step s = .next t ∧ t.env.cmdIn = s.env.cmdIn ∧ t.tx = s.tx)

/-- 42_tx_serializer.md R104 to R110. -/
def Obligations.TxHeaderPhasesEmitHeader : Prop :=
  (decodeTxEmit 0x1#4 = .ok .txHdr ∧ decodeTxEmit 0x2#4 = .ok .txChkHi ∧
    decodeTxEmit 0x3#4 = .ok .txChkLo ∧ decodeTxEmit 0x4#4 = .ok .txTidHi ∧
    decodeTxEmit 0x5#4 = .ok .txTidLo ∧ decodeTxEmit 0x6#4 = .ok .txLenHi ∧
    decodeTxEmit 0x7#4 = .ok .txLenLo) ∧
  ∀ s : State, s.txFault = none →
    (s.tx.phase = TxPhase.hdr → exec .txHdr s = .next { s with
      tx := { s.tx with phase := TxPhase.chkHi },
      obs := { s.obs with txBytes := s.obs.txBytes ++ [0x99#8] } }) ∧
    (s.tx.phase = TxPhase.chkHi → exec .txChkHi s = .next { s with
      tx := { s.tx with phase := TxPhase.chkLo },
      obs := { s.obs with txBytes := s.obs.txBytes ++ [s.tx.chk.extractLsb' 8 8] } }) ∧
    (s.tx.phase = TxPhase.chkLo → exec .txChkLo s = .next { s with
      tx := { s.tx with phase := TxPhase.tidHi },
      obs := { s.obs with txBytes := s.obs.txBytes ++ [s.tx.chk.extractLsb' 0 8] } }) ∧
    (s.tx.phase = TxPhase.tidHi → exec .txTidHi s = .next { s with
      tx := { s.tx with phase := TxPhase.tidLo },
      obs := { s.obs with txBytes := s.obs.txBytes ++ [s.tx.topic.extractLsb' 8 8] } }) ∧
    (s.tx.phase = TxPhase.tidLo → exec .txTidLo s = .next { s with
      tx := { s.tx with phase := TxPhase.lenHi },
      obs := { s.obs with txBytes := s.obs.txBytes ++ [s.tx.topic.extractLsb' 0 8] } }) ∧
    (s.tx.phase = TxPhase.lenHi → exec .txLenHi s = .next { s with
      tx := { s.tx with phase := TxPhase.lenLo },
      obs := { s.obs with txBytes := s.obs.txBytes ++ [s.tx.len.extractLsb' 8 8] } }) ∧
    (s.tx.phase = TxPhase.lenLo → exec .txLenLo s = .next { s with
      tx := { s.tx with phase := if s.tx.len = 0#16 then TxPhase.idle else TxPhase.data },
      obs := { s.obs with txBytes := s.obs.txBytes ++ [s.tx.len.extractLsb' 0 8] } })

/-- 42_tx_serializer.md R111. -/
def Obligations.TxDataEmitsPayloadOrEscape : Prop :=
  decodeTxEmit 0x8#4 = .ok .txData ∧
  ∀ s : State, s.txFault = none → s.tx.phase = TxPhase.data →
    (isReserved s.params.endMarker (payByte s s.tx.idx.toNat) = true →
      exec .txData s = .next { s with
        tx := { s.tx with hold := payByte s s.tx.idx.toNat, phase := TxPhase.dataEsc },
        obs := { s.obs with txBytes := s.obs.txBytes ++ [0x98#8] } }) ∧
    (isReserved s.params.endMarker (payByte s s.tx.idx.toNat) = false →
      exec .txData s = .next { s with
        tx := { s.tx with
                idx := s.tx.idx + 1#16,
                phase := if s.tx.idx + 1#16 = s.tx.len then TxPhase.idle else TxPhase.data },
        obs := { s.obs with txBytes := s.obs.txBytes ++ [payByte s s.tx.idx.toNat] } })

/-- 42_tx_serializer.md R112. -/
def Obligations.TxDataEscEmitsHeldByte : Prop :=
  decodeTxEmit 0x9#4 = .ok .txDataEsc ∧
  ∀ s : State, s.txFault = none → s.tx.phase = TxPhase.dataEsc →
    exec .txDataEsc s = .next { s with
      tx := { s.tx with
              idx := s.tx.idx + 1#16,
              phase := if s.tx.idx + 1#16 = s.tx.len then TxPhase.idle else TxPhase.data },
      obs := { s.obs with txBytes := s.obs.txBytes ++ [s.tx.hold] } }

/-- 42_tx_serializer.md R113. -/
def Obligations.TxEndmkEmitsMarker : Prop :=
  decodeTxEmit 0xA#4 = .ok .txEndmk ∧
  ∀ s : State, s.txFault = none → s.tx.phase = TxPhase.endmk →
    exec .txEndmk s = .next { s with
      tx := { s.tx with phase := TxPhase.idle },
      obs := { s.obs with txBytes := s.obs.txBytes ++ [0x97#8] } }

/-- 42_tx_serializer.md R114: the fault is recorded on the TX half, which then emits nothing more (the
record's place in State and the stop are the model's form of it, log 8). -/
def Obligations.TxRsvdRecordsReservedTxPhase : Prop :=
  decodeTxEmit 0xB#4 = .ok .txRsvdB ∧
  (∀ lo, decodeTxEmit (0b11#2 ++ lo) = .ok (.txRsvdC lo)) ∧
  ∀ (s : State) (lo lo' : BitVec 2), s.txFault = none →
    (s.tx.phase = 11#4 →
      exec .txRsvdB s = .next { s with txFault := some .reservedTxPhase } ∧
      exec .txRsvdB { s with txFault := some .reservedTxPhase } = .fault .reservedTxPhase) ∧
    (12#4 ≤ s.tx.phase →
      exec (.txRsvdC lo) s = .next { s with txFault := some .reservedTxPhase } ∧
      exec (.txRsvdC lo') { s with txFault := some .reservedTxPhase } = .fault .reservedTxPhase)

/-- 10_state.md R27: the byte a TxEmit step transfers is the `tx_data` shown before it, in every phase that
has one; one byte a step. -/
def Obligations.TxEmitTransfersTxData : Prop :=
  ∀ s : State, nextAction s = some .txEmit → s.txFault = none → s.tx.phase ≠ TxPhase.idle →
    s.tx.phase ≤ TxPhase.endmk →
    ∃ b t, txDataOut s = some b ∧ step s = .next t ∧ t.obs.txBytes = s.obs.txBytes ++ [b]

/-! ## The control rows and PayWrite -/

/-- 60_exceptions.md R142, and 00_scope.md R10 for what the consumer takes. -/
def Obligations.EvtAckTakesEvent : Prop :=
  (∀ a, decodeCtl 0b00#2 a = .evtAck) ∧
  ∀ s : State,
    (s.evt.pending = true → exec .evtAck s = .next { s with
      evt := { s.evt with pending := false },
      obs := { s.obs with events := s.obs.events ++
        [⟨s.evt.type, s.evt.err, s.evt.topic, s.evt.len, s.evt.count, s.evt.byte,
          (List.range s.evt.count.toNat).map fun i => bufRdata s (BitVec.ofNat 16 i)⟩] } }) ∧
    (s.evt.pending = false → exec .evtAck s = .next s)

/-- 60_exceptions.md R146: the abort, and its corner case (a strobe in WFH or while an event is pending). That the
corner case holds whatever fault is recorded on the RX half is the model's choice (log 11). -/
def Obligations.TimeoutAbortsFrame : Prop :=
  (∀ a, decodeCtl 0b01#2 a = .timeout) ∧
  ∀ s : State, s.params.timeoutPresent = true →
    (s.rxFault = none → s.rx.state ≠ RxState.wfh → s.evt.pending = false →
      exec .timeout s = .next { s with
        evt := ⟨true, 1#2, 3#3, s.rx.topic, s.rx.len, s.rx.count, 0x00#8⟩,
        rx := ⟨RxState.wfh, 0#1, 0#16, 0#16, 0#16, 0#16⟩ }) ∧
    ((s.rx.state = RxState.wfh ∨ s.evt.pending = true) → exec .timeout s = .next s)

/-- Model's choice (log 11): in a block without the option, where 60_exceptions.md R147 says the `tmo` input
does not exist, the action changes nothing; so IncompletePacket is never raised there. -/
def Obligations.TimeoutAbsentHasNoEffect : Prop :=
  ∀ s : State, s.params.timeoutPresent = false →
    exec .timeout s = .next s ∧
    (∀ t, step s = .next t → t.evt.type = 1#2 → t.evt.err = 3#3 → t.evt = s.evt ∨
      (t.evt = { s.evt with pending := false } ∧ nextAction s = some .evtAck))

/-- 70_reset_and_hazards.md R160: from any state; the buffer, PAY, the bytes already emitted and the events
already taken stay, and a pending event is discarded without being taken. -/
def Obligations.ResetLoadsResetValues : Prop :=
  (∀ a, decodeCtl 0b10#2 a = .reset) ∧
  ∀ s : State, ∃ t, exec .reset s = .next t ∧
    t.rx = ⟨0#3, 0#1, 0#16, 0#16, 0#16, 0#16⟩ ∧
    t.evt = ⟨false, 0#2, 0#3, 0#16, 0#16, 0#16, 0#8⟩ ∧
    t.tx = ⟨0#4, 0#16, 0#16, 0#16, 0#16, 0#8⟩ ∧
    t.rxBuf = s.rxBuf ∧ t.pay = s.pay ∧ t.obs = s.obs ∧ t.env = s.env ∧ t.params = s.params ∧
    t.powerOn = s.powerOn ∧
    rxReady t = true ∧ cmdReady t = true ∧ evtValid t = false ∧ txValid t = false

/-- Model's reading (log 8): a Reset drops the faults recorded on both halves, so that both take steps
again; 60_exceptions.md R132 says its effect wins over whatever state the other actions left. -/
def Obligations.ResetDropsRecordedFaults : Prop :=
  ∀ s : State, ∃ t, exec .reset s = .next t ∧ t.rxFault = none ∧ t.txFault = none

/-- 20_memory.md R31: inside the buffer the byte the cell holds (the last one stored), 0x00 past it, and no
state changed but the environment's sample of `buf_rdata` (log 7). -/
def Obligations.BufReadAnswersCell : Prop :=
  (∀ a, decodeCtl 0b11#2 a = .bufRead a) ∧
  ∀ (s : State) (a : Half),
    (a < s.params.maxPacketSize → ∀ v, Memory.read s.rxBuf a.toNat = some v →
      exec (.bufRead a) s = .next { s with obs := { s.obs with bufRead := some (a, v) } }) ∧
    (a < s.params.maxPacketSize →
      exec (.bufRead a) s = .next { s with obs := { s.obs with bufRead := some (a, rxCell s a.toNat) } }) ∧
    (s.params.maxPacketSize ≤ a →
      exec (.bufRead a) s = .next { s with obs := { s.obs with bufRead := some (a, 0x00#8) } })

/-- 20_memory.md R35: `PAY[a] <- v` and no other byte; and 70_reset_and_hazards.md R167: below `tx_len`
while the phase is not IDLE, the fault PayloadChangedDuringSend is recorded (log 8 for its place). -/
def Obligations.PayWriteStoresByteAndGuardsSend : Prop :=
  ∀ (s : State) (a : Half) (v : Byte) (m : Memory), m = Memory.write s.pay a.toNat v →
    Memory.read m a.toNat = some v ∧
    (∀ i, i ≠ a.toNat → Memory.read m i = Memory.read s.pay i) ∧
    ((s.tx.phase = TxPhase.idle ∨ s.tx.len ≤ a) → execPayWrite a v s = .next { s with pay := m }) ∧
    (s.tx.phase ≠ TxPhase.idle → a < s.tx.len → s.txFault = none →
      execPayWrite a v s = .next { s with pay := m, txFault := some .payloadChangedDuringSend })

/-! ## The codec -/

/-- 40_frame_codec.md R60: the seeds, and one more byte. -/
def Obligations.ChecksumRecurrence : Prop :=
  checksum [] = 0xFF#8 ++ 0xFF#8 ∧
  ∀ (bs : List Byte) (b sum1 sum2 : Byte), checksum bs = sum2 ++ sum1 →
    checksum (bs ++ [b]) = (sum2 + (sum1 + b)) ++ (sum1 + b)

/-- 40_frame_codec.md R62: the closed form, which the spec derives from R60. -/
def Obligations.ChecksumClosedForm : Prop :=
  ∀ s : List Byte,
    (loByte (checksum s)).toNat = (0xFF + (s.map BitVec.toNat).sum) % 256 ∧
    (hiByte (checksum s)).toNat =
      (0xFF * (s.length + 1) +
        ((List.range s.length).map fun i => (s.length - i) * (s.getD i 0#8).toNat).sum) % 256

/-- 40_frame_codec.md R63: changing any one payload byte is always detected. -/
def Obligations.ChecksumDetectsOneChangedByte : Prop :=
  ∀ (before after : List Byte) (b c : Byte), b ≠ c →
    checksum (before ++ b :: after) ≠ checksum (before ++ c :: after)

/-- 40_frame_codec.md R63: a swap of two payload bytes goes undetected exactly when
`(j - i) * (s[i] - s[j])` is 0 mod 256. -/
def Obligations.ChecksumSwapUndetectedExactly : Prop :=
  ∀ (before mid after : List Byte) (b c : Byte),
    checksum (before ++ b :: (mid ++ c :: after)) = checksum (before ++ c :: (mid ++ b :: after)) ↔
      (256 : Int) ∣ ((mid.length : Int) + 1) * ((b.toNat : Int) - (c.toNat : Int))

/-- 40_frame_codec.md R67: `unescape(escape(s)) = s` for every `s`, with or without END markers. -/
def Obligations.UnescapeOfEscape : Prop :=
  ∀ (e : Bool) (s : List Byte), unescape (escape e s) = s

/-- 40_frame_codec.md R64, R65 and the first property of R66: which bytes are reserved, how long the escaped
form is, and that 0x99 stands in it only right after 0x98. -/
def Obligations.EscapeShape : Prop :=
  ∀ (e : Bool) (s : List Byte),
    (∀ b, isReserved e b = true ↔ b = 0x99#8 ∨ b = 0x98#8 ∨ (e = true ∧ b = 0x97#8)) ∧
    (escape e s).length = s.length + s.countP (isReserved e) ∧
    (∀ i, (escape e s)[i]? = some 0x99#8 → ∃ j, i = j + 1 ∧ (escape e s)[j]? = some 0x98#8)

/-! ## The whole machine -/

/-- 70_reset_and_hazards.md R161: the registers of the reset state; and it satisfies the invariant. -/
def Obligations.ResetStateMeetsInvariant : Prop :=
  (∀ p : Params, Inv (State.resetWith p)) ∧
  State.reset.rx = ⟨0#3, 0#1, 0#16, 0#16, 0#16, 0#16⟩ ∧
  State.reset.evt = ⟨false, 0#2, 0#3, 0#16, 0#16, 0#16, 0#8⟩ ∧
  State.reset.tx = ⟨0#4, 0#16, 0#16, 0#16, 0#16, 0#8⟩

/-- Every step keeps the invariant: only defined parser states, phases, event types and error codes are
written (30_encoding.md R58), `rx_count < rx_len <= MAX_PACKET_SIZE` in the payload states (10_state.md
R23), `rx_idx` is 0 outside the header (R19), a pending event leaves the parser in WFH or at a new frame's
start (60_exceptions.md R135), a frame's and an event's bytes have been written, and both memories stay
canonical. -/
def Obligations.StepKeepsInvariant : Prop :=
  ∀ s t : State, Inv s → step s = .next t → Inv t

/-- The block never halts and no error is fatal (60_exceptions.md R120, R148): from every state with no fault
recorded, and whatever byte, command or action comes next, the step answers a next state. In states that no run
reaches this rests on the model's choices: what a store or a completion past the buffer does (log 9), and that the
action which records a fault goes on to a next state (log 8). -/
def Obligations.StepNeverStopsWithoutRecordedFault : Prop :=
  ∀ s : State, s.rxFault = none → s.txFault = none → ∃ t, step s = .next t

/-- A step stops only with a fault recorded before it, and it never refuses (60_exceptions.md R120; log 8). -/
def Obligations.StepStopsOnlyWithRecordedFault : Prop :=
  ∀ s : State,
    (∀ f, step s = .fault f → s.rxFault = some f ∨ s.txFault = some f) ∧ (∀ r, step s ≠ .refused r)

/-- The closed list of 60_exceptions.md R120: a step records a fault only for the causes of 41_rx_parser.md R90,
42_tx_serializer.md R114 and 70_reset_and_hazards.md R167 (log 15 for its reading), and drops one only by Reset
(log 8). -/
def Obligations.FaultsRecordedOnlyForNamedCauses : Prop :=
  ∀ s t : State, step s = .next t →
    (t.rxFault = s.rxFault ∨ (nextAction s = some .reset ∧ t.rxFault = none) ∨
      (nextAction s = some .rxByte ∧ s.evt.pending = false ∧ RxState.resc < s.rx.state ∧
        t.rxFault = some .reservedParserState)) ∧
    (t.txFault = s.txFault ∨ (nextAction s = some .reset ∧ t.txFault = none) ∨
      (nextAction s = some .txEmit ∧ TxPhase.endmk < s.tx.phase ∧
        t.txFault = some .reservedTxPhase) ∨
      ∃ a v, nextAction s = some (.payWrite a v) ∧ s.tx.phase ≠ TxPhase.idle ∧ a < s.tx.len ∧
        t.txFault = some .payloadChangedDuringSend)

/-- 00_scope.md R5: no action changes a parameter. -/
def Obligations.NoStepChangesParameters : Prop :=
  ∀ s t : State, step s = .next t → t.params = s.params ∧ t.powerOn = s.powerOn

/-- The frame of each half: the RX actions leave the serializer, PAY and the emitted bytes alone, and the TX
actions leave the parser, the buffer, the event registers and the taken events alone (20_memory.md R41,
92_eei_decisions.md D21). -/
def Obligations.EachHalfLeavesTheOtherAlone : Prop :=
  ∀ s t : State, step s = .next t →
    ((nextAction s = some .rxByte ∨ nextAction s = some .evtAck ∨ nextAction s = some .timeout ∨
        ∃ a, nextAction s = some (.bufRead a)) →
      t.tx = s.tx ∧ t.txFault = s.txFault ∧ t.pay = s.pay ∧ t.obs.txBytes = s.obs.txBytes ∧
      t.env.cmdIn = s.env.cmdIn) ∧
    ((nextAction s = some .txCmd ∨ nextAction s = some .txEmit ∨
        ∃ a v, nextAction s = some (.payWrite a v)) →
      t.rx = s.rx ∧ t.rxBuf = s.rxBuf ∧ t.evt = s.evt ∧ t.rxFault = s.rxFault ∧
      t.obs.events = s.obs.events ∧ t.obs.bufRead = s.obs.bufRead ∧ t.env.rxIn = s.env.rxIn)

/-- The RX parser and the TX serializer share no state (00_scope.md R9): what an action of one half does is
the same whatever the other half holds. Two runs are compared: one from `s`, one from `s` with the other
half's state replaced. -/
def Obligations.HalvesDoNotInterfere : Prop :=
  ∀ s : State,
    (∀ (a : Action) (r : TxRegs) (m : Memory) (f : Option Fault),
      (a = .rxByte ∨ a = .evtAck ∨ a = .timeout ∨ ∃ addr, a = .bufRead addr) →
      takeAction a (((s.setTx r).setPay m).setTxFault f) =
        mapNext (fun t => ((t.setTx r).setPay m).setTxFault f) (takeAction a s)) ∧
    (∀ (a : Action) (r : RxRegs) (m : Memory) (e : EvtRegs) (f : Option Fault),
      (a = .txCmd ∨ a = .txEmit ∨ ∃ addr v, a = .payWrite addr v) →
      takeAction a ((((s.setRx r).setRxBuf m).setEvt e).setRxFault f) =
        mapNext (fun t => (((t.setRx r).setRxBuf m).setEvt e).setRxFault f) (takeAction a s))

/-- While an event is pending, no step but EvtAck and Reset touches it, the parser, the buffer or the RX
port; EvtAck hands over exactly that event, once (20_memory.md R40, 60_exceptions.md R130, R141). -/
def Obligations.PendingEventIsStable : Prop :=
  ∀ s t : State, s.evt.pending = true → step s = .next t → nextAction s ≠ some .reset →
    t.rx = s.rx ∧ t.rxBuf = s.rxBuf ∧ t.env.rxIn = s.env.rxIn ∧
    (nextAction s ≠ some .evtAck → t.evt = s.evt ∧ t.obs.events = s.obs.events) ∧
    (nextAction s = some .evtAck → t.evt = { s.evt with pending := false } ∧
      t.obs.events = s.obs.events ++ [takenEvent s])

/-- 20_memory.md R32: a step writes RXBUF only by storing the received byte at index `rx_count`, in a payload
state, below the declared length and inside the buffer; every other cell reads as before. -/
def Obligations.RxBufWrittenOnlyByStore : Prop :=
  ∀ s t : State, step s = .next t →
    (∀ i, Memory.read t.rxBuf i = Memory.read s.rxBuf i) ∨
    (nextAction s = some .rxByte ∧ s.evt.pending = false ∧
      (s.rx.state = RxState.rdata ∨ s.rx.state = RxState.resc) ∧
      s.rx.count < s.rx.len ∧ s.rx.count < s.params.maxPacketSize ∧
      ∃ b, s.env.rxIn.head? = some b ∧ Memory.read t.rxBuf s.rx.count.toNat = some b ∧
        ∀ i, i ≠ s.rx.count.toNat → Memory.read t.rxBuf i = Memory.read s.rxBuf i)

/-- 20_memory.md R35: the block never writes PAY; only a PayWrite does, at its own address. -/
def Obligations.PayWrittenOnlyByPayWrite : Prop :=
  ∀ s t : State, step s = .next t →
    (∀ i, Memory.read t.pay i = Memory.read s.pay i) ∨
    ∃ a v, nextAction s = some (.payWrite a v) ∧ Memory.read t.pay a.toNat = some v ∧
      ∀ i, i ≠ a.toNat → Memory.read t.pay i = Memory.read s.pay i

/-- Dispatch is fail-closed (41_rx_parser.md R94): a step that loads a PACKET event completes a frame whose
payload, as the consumer will read it, has the checksum that was received. The invariant rules out a declared
length past the buffer, which no run reaches (log 9). -/
def Obligations.PacketOnlyWithMatchingChecksum : Prop :=
  ∀ s t : State, Inv s → step s = .next t → s.evt.pending = false → t.evt.pending = true →
    t.evt.type = EvtType.packet →
    checksum (payloadView t) = s.rx.chk ∧ t.evt.count = t.evt.len ∧ t.evt.topic = s.rx.topic ∧
    t.evt.len ≤ s.params.maxPacketSize ∧ t.rx = ⟨RxState.wfh, 0#1, 0#16, 0#16, 0#16, 0#16⟩

/-- An accepted SEND_FRAME leaves the serializer with exactly `encode_frame(T, P)` to emit, P the contents of
PAY at acceptance (40_frame_codec.md R68, 42_tx_serializer.md R101). -/
def Obligations.SendFrameQueuesEncodedFrame : Prop :=
  ∀ (s : State) (topic len : Half), s.txFault = none → s.tx.phase = TxPhase.idle →
    ∃ t, exec (.sendFrame topic len) s = .next t ∧
      bytesToEmit t = encodeFrame s.params.endMarker topic (payBytes s len.toNat)

/-- Whatever actions interleave, what has been emitted followed by what is left to emit never changes while a
frame or marker goes out, if PAY below `tx_len` is not written and no Reset comes (42_tx_serializer.md R115,
20_memory.md R41). -/
def Obligations.EmittedAndRemainingBytesConserved : Prop :=
  ∀ s t : State, Inv s → s.txFault = none → step s = .next t →
    nextAction s ≠ some .reset →
    (nextAction s = some .txCmd → s.tx.phase ≠ TxPhase.idle) →
    (∀ a v, nextAction s = some (.payWrite a v) → s.tx.phase = TxPhase.idle ∨ s.tx.len ≤ a) →
    t.obs.txBytes ++ bytesToEmit t = s.obs.txBytes ++ bytesToEmit s

/-- 42_tx_serializer.md R115, for the run of SEND_FRAME followed by its TxEmit steps: the emitted bytes are
`encode_frame(T, P)`, in `7 + L + #reserved` steps, and the serializer is then IDLE. -/
def Obligations.SentFrameIsEncodeFrame : Prop :=
  ∀ (s : State) (topic : Half) (P : List Byte) (n : Nat),
    P.length < 65536 → s.txFault = none → s.tx.phase = TxPhase.idle →
    (∀ i, i < P.length → payByte s i = P.getD i 0#8) →
    n = 7 + P.length + P.countP (isReserved s.params.endMarker) →
    ∃ t, Sys2Proof.core.run (1 + n)
        (sendAndPull (txCmdWord 0#1 topic (BitVec.ofNat 16 P.length)) n s) = .next t ∧
      t.tx.phase = TxPhase.idle ∧
      t.obs.txBytes = s.obs.txBytes ++ encodeFrame s.params.endMarker topic P

/-- The round-trip law (40_frame_codec.md R69): `encode_frame(T, P)` fed byte by byte, with an
acknowledge after each byte, to a parser in WFH gives exactly one event, the PACKET with that topic, length
and payload, and leaves the parser in WFH. The sender's END setting is the receiver's, or off while the
receiver has it on and is not strict. -/
def Obligations.FrameRoundTrip : Prop :=
  ∀ (s : State) (e : Bool) (topic : Half) (P : List Byte),
    s.rxFault = none → s.rx.state = RxState.wfh → s.evt.pending = false →
    P.length ≤ s.params.maxPacketSize.toNat →
    (e = s.params.endMarker ∨
      (e = false ∧ s.params.endMarker = true ∧ s.params.strictEscape = false)) →
    ∃ t last, Sys2Proof.core.run (2 * (encodeFrame e topic P).length)
        (feedAcked (encodeFrame e topic P) s) = .next t ∧
      t.obs.events = s.obs.events ++
        [⟨EvtType.packet, 0#3, topic, BitVec.ofNat 16 P.length, BitVec.ofNat 16 P.length, last, P⟩] ∧
      t.rx.state = RxState.wfh ∧ t.evt.pending = false ∧ t.rxFault = none

/-- The second half of 40_frame_codec.md R69: a frame longer than the receiver accepts raises BufferOverflow
on the last length byte, before any payload byte, and nothing earlier. -/
def Obligations.TooLongFrameOverflows : Prop :=
  ∀ (s : State) (topic : Half) (P : List Byte),
    s.rxFault = none → s.rx.state = RxState.wfh → s.evt.pending = false →
    s.params.maxPacketSize.toNat < P.length → P.length < 65536 →
    ∃ t, Sys2Proof.core.run 14 (feedAcked (frameHeader topic P) s) = .next t ∧
      t.obs.events = s.obs.events ++
        [⟨EvtType.error, ErrorKind.bufferOverflow.code, topic, BitVec.ofNat 16 P.length, 0#16,
          loByte (BitVec.ofNat 16 P.length), []⟩] ∧
      t.rx.state = RxState.wfh ∧ t.evt.pending = false ∧ t.rxBuf = s.rxBuf

/-- 41_rx_parser.md R95: from any state a run reaches, once no byte is 0x99, the parser is in WFH after
`6 + 2 * MAX_PACKET_SIZE` acknowledged bytes, and after any more. -/
def Obligations.BoundedReturnToWfh : Prop :=
  ∀ (s : State) (bytes : List Byte), Inv s → s.evt.pending = false →
    (∀ b ∈ bytes, b ≠ 0x99#8) → 6 + 2 * s.params.maxPacketSize.toNat ≤ bytes.length →
    ∃ t, Sys2Proof.core.run (2 * bytes.length) (feedAcked bytes s) = .next t ∧
      t.rx.state = RxState.wfh ∧ t.evt.pending = false
end

