-- ==== Sys2Proof/Laws/Decode.lean ====
section
/-! SUPPORT. The fields of the select words, and the decoder on a word put together from its fields. -/

namespace Sys2Proof

/-- The high part of a concatenation. -/
theorem extract_hi {n m : Nat} (x : BitVec n) (y : BitVec m) : (x ++ y).extractLsb' m n = x := by
  ext i hi
  simp [BitVec.getLsbD_append, BitVec.getLsbD_eq_getElem hi]

/-- The low part of a concatenation. -/
theorem extract_lo {n m : Nat} (x : BitVec n) (y : BitVec m) : (x ++ y).extractLsb' 0 m = y := by
  ext i hi
  simp [BitVec.getLsbD_append, hi]

/-- A word is the concatenation of its parts. -/
theorem append_extract {n m : Nat} (w : BitVec (n + m)) :
    w.extractLsb' m n ++ w.extractLsb' 0 m = w := by
  ext i hi
  simp

/-- A part of a part. -/
theorem extract_extract {n : Nat} (w : BitVec n) (a b c d : Nat) (h : c + d ≤ b) :
    (w.extractLsb' a b).extractLsb' c d = w.extractLsb' (a + c) d := by
  ext i hi
  simp [Nat.add_assoc]
  omega

@[simp] theorem rxWordState_rxWord (st : BitVec 3) (b : Byte) : rxWordState (rxWord st b) = st :=
  extract_hi st b

@[simp] theorem rxWordByte_rxWord (st : BitVec 3) (b : Byte) : rxWordByte (rxWord st b) = b :=
  extract_lo st b

theorem rxWord_eta (w : BitVec 11) : rxWord (rxWordState w) (rxWordByte w) = w :=
  append_extract (n := 3) (m := 8) w

@[simp] theorem txCmdWord_op (o : BitVec 1) (t l : Half) : (txCmdWord o t l).extractLsb' 32 1 = o :=
  extract_hi o (t ++ l)

@[simp] theorem txCmdWord_topic (o : BitVec 1) (t l : Half) :
    (txCmdWord o t l).extractLsb' 16 16 = t := by
  rw [← extract_extract (txCmdWord o t l) 0 32 16 16 (by omega)]
  exact (congrArg (BitVec.extractLsb' 16 16) (extract_lo o (t ++ l))).trans (extract_hi t l)

@[simp] theorem txCmdWord_len (o : BitVec 1) (t l : Half) :
    (txCmdWord o t l).extractLsb' 0 16 = l := by
  rw [← extract_extract (txCmdWord o t l) 0 32 0 16 (by omega)]
  exact (congrArg (BitVec.extractLsb' 0 16) (extract_lo o (t ++ l))).trans (extract_lo t l)

/-- The rx decoder on a state and a byte. -/
theorem decodeRx_rxWord (p : Params) (st : BitVec 3) (b : Byte) :
    decodeRx p (rxWord st b) =
      if st = RxState.wfh then
        if b = HEADER then .rxWfhHdr
        else if p.endMarker && b == ENDMARK then .rxWfhEnd
        else .rxWfhOof b
      else if st = RxState.rck then .rxRck b
      else if st = RxState.rtid then .rxRtid b
      else if st = RxState.rlen then .rxRlen b
      else if st = RxState.rdata then
        if b = ESCAPE then .rxRdataEsc
        else if b = HEADER then .rxRdataHdr
        else .rxRdataByte b
      else if st = RxState.resc then .rxResc b
      else .rxRsvd (st.extractLsb' 0 1) b := by
  simp only [decodeRx, rxWordState_rxWord, rxWordByte_rxWord]

/-! The row or rows of each parser state. -/

theorem decodeRx_wfh (p : Params) (b : Byte) : decodeRx p (rxWord RxState.wfh b) =
    if b = HEADER then .rxWfhHdr else if p.endMarker && b == ENDMARK then .rxWfhEnd
    else .rxWfhOof b := by rw [decodeRx_rxWord, if_pos rfl]

theorem decodeRx_rck (p : Params) (b : Byte) :
    decodeRx p (rxWord RxState.rck b) = .rxRck b := by rw [decodeRx_rxWord]; rfl

theorem decodeRx_rtid (p : Params) (b : Byte) :
    decodeRx p (rxWord RxState.rtid b) = .rxRtid b := by rw [decodeRx_rxWord]; rfl

theorem decodeRx_rlen (p : Params) (b : Byte) :
    decodeRx p (rxWord RxState.rlen b) = .rxRlen b := by rw [decodeRx_rxWord]; rfl

theorem decodeRx_rdata (p : Params) (b : Byte) : decodeRx p (rxWord RxState.rdata b) =
    if b = ESCAPE then .rxRdataEsc else if b = HEADER then .rxRdataHdr else .rxRdataByte b := by
  rw [decodeRx_rxWord]; rfl

theorem decodeRx_resc (p : Params) (b : Byte) :
    decodeRx p (rxWord RxState.resc b) = .rxResc b := by rw [decodeRx_rxWord]; rfl

/-- The command decoder on a command. -/
@[simp] theorem decodeTxCmd_frame (t l : Half) : decodeTxCmd (txCmdWord 0#1 t l) = .sendFrame t l := by
  simp [decodeTxCmd]

@[simp] theorem decodeTxCmd_end (t l : Half) : decodeTxCmd (txCmdWord 1#1 t l) = .sendEnd := by
  simp [decodeTxCmd]

end Sys2Proof
end

