-- ==== Sys2Proof/Laws/State.lean ====
section
/-! SUPPORT. One lemma per field per update of State, so that no proof unfolds an update. -/

namespace Sys2Proof.Machine

@[simp] theorem setRx_params (s : State) (x : RxRegs) : (s.setRx x).params = s.params := rfl
@[simp] theorem setRx_rx (s : State) (x : RxRegs) : (s.setRx x).rx = x := rfl
@[simp] theorem setRx_rxBuf (s : State) (x : RxRegs) : (s.setRx x).rxBuf = s.rxBuf := rfl
@[simp] theorem setRx_evt (s : State) (x : RxRegs) : (s.setRx x).evt = s.evt := rfl
@[simp] theorem setRx_tx (s : State) (x : RxRegs) : (s.setRx x).tx = s.tx := rfl
@[simp] theorem setRx_pay (s : State) (x : RxRegs) : (s.setRx x).pay = s.pay := rfl
@[simp] theorem setRx_powerOn (s : State) (x : RxRegs) : (s.setRx x).powerOn = s.powerOn := rfl
@[simp] theorem setRx_rxFault (s : State) (x : RxRegs) : (s.setRx x).rxFault = s.rxFault := rfl
@[simp] theorem setRx_txFault (s : State) (x : RxRegs) : (s.setRx x).txFault = s.txFault := rfl
@[simp] theorem setRx_env (s : State) (x : RxRegs) : (s.setRx x).env = s.env := rfl
@[simp] theorem setRx_obs (s : State) (x : RxRegs) : (s.setRx x).obs = s.obs := rfl
@[simp] theorem setRx_setRx (s : State) (x y : RxRegs) : (s.setRx x).setRx y = s.setRx y := rfl
@[simp] theorem setRx_self (s : State) : s.setRx s.rx = s := rfl

@[simp] theorem setRxBuf_params (s : State) (x : Memory) : (s.setRxBuf x).params = s.params := rfl
@[simp] theorem setRxBuf_rx (s : State) (x : Memory) : (s.setRxBuf x).rx = s.rx := rfl
@[simp] theorem setRxBuf_rxBuf (s : State) (x : Memory) : (s.setRxBuf x).rxBuf = x := rfl
@[simp] theorem setRxBuf_evt (s : State) (x : Memory) : (s.setRxBuf x).evt = s.evt := rfl
@[simp] theorem setRxBuf_tx (s : State) (x : Memory) : (s.setRxBuf x).tx = s.tx := rfl
@[simp] theorem setRxBuf_pay (s : State) (x : Memory) : (s.setRxBuf x).pay = s.pay := rfl
@[simp] theorem setRxBuf_powerOn (s : State) (x : Memory) : (s.setRxBuf x).powerOn = s.powerOn := rfl
@[simp] theorem setRxBuf_rxFault (s : State) (x : Memory) : (s.setRxBuf x).rxFault = s.rxFault := rfl
@[simp] theorem setRxBuf_txFault (s : State) (x : Memory) : (s.setRxBuf x).txFault = s.txFault := rfl
@[simp] theorem setRxBuf_env (s : State) (x : Memory) : (s.setRxBuf x).env = s.env := rfl
@[simp] theorem setRxBuf_obs (s : State) (x : Memory) : (s.setRxBuf x).obs = s.obs := rfl
@[simp] theorem setRxBuf_setRxBuf (s : State) (x y : Memory) : (s.setRxBuf x).setRxBuf y = s.setRxBuf y := rfl
@[simp] theorem setRxBuf_self (s : State) : s.setRxBuf s.rxBuf = s := rfl

@[simp] theorem setEvt_params (s : State) (x : EvtRegs) : (s.setEvt x).params = s.params := rfl
@[simp] theorem setEvt_rx (s : State) (x : EvtRegs) : (s.setEvt x).rx = s.rx := rfl
@[simp] theorem setEvt_rxBuf (s : State) (x : EvtRegs) : (s.setEvt x).rxBuf = s.rxBuf := rfl
@[simp] theorem setEvt_evt (s : State) (x : EvtRegs) : (s.setEvt x).evt = x := rfl
@[simp] theorem setEvt_tx (s : State) (x : EvtRegs) : (s.setEvt x).tx = s.tx := rfl
@[simp] theorem setEvt_pay (s : State) (x : EvtRegs) : (s.setEvt x).pay = s.pay := rfl
@[simp] theorem setEvt_powerOn (s : State) (x : EvtRegs) : (s.setEvt x).powerOn = s.powerOn := rfl
@[simp] theorem setEvt_rxFault (s : State) (x : EvtRegs) : (s.setEvt x).rxFault = s.rxFault := rfl
@[simp] theorem setEvt_txFault (s : State) (x : EvtRegs) : (s.setEvt x).txFault = s.txFault := rfl
@[simp] theorem setEvt_env (s : State) (x : EvtRegs) : (s.setEvt x).env = s.env := rfl
@[simp] theorem setEvt_obs (s : State) (x : EvtRegs) : (s.setEvt x).obs = s.obs := rfl
@[simp] theorem setEvt_setEvt (s : State) (x y : EvtRegs) : (s.setEvt x).setEvt y = s.setEvt y := rfl
@[simp] theorem setEvt_self (s : State) : s.setEvt s.evt = s := rfl

@[simp] theorem setTx_params (s : State) (x : TxRegs) : (s.setTx x).params = s.params := rfl
@[simp] theorem setTx_rx (s : State) (x : TxRegs) : (s.setTx x).rx = s.rx := rfl
@[simp] theorem setTx_rxBuf (s : State) (x : TxRegs) : (s.setTx x).rxBuf = s.rxBuf := rfl
@[simp] theorem setTx_evt (s : State) (x : TxRegs) : (s.setTx x).evt = s.evt := rfl
@[simp] theorem setTx_tx (s : State) (x : TxRegs) : (s.setTx x).tx = x := rfl
@[simp] theorem setTx_pay (s : State) (x : TxRegs) : (s.setTx x).pay = s.pay := rfl
@[simp] theorem setTx_powerOn (s : State) (x : TxRegs) : (s.setTx x).powerOn = s.powerOn := rfl
@[simp] theorem setTx_rxFault (s : State) (x : TxRegs) : (s.setTx x).rxFault = s.rxFault := rfl
@[simp] theorem setTx_txFault (s : State) (x : TxRegs) : (s.setTx x).txFault = s.txFault := rfl
@[simp] theorem setTx_env (s : State) (x : TxRegs) : (s.setTx x).env = s.env := rfl
@[simp] theorem setTx_obs (s : State) (x : TxRegs) : (s.setTx x).obs = s.obs := rfl
@[simp] theorem setTx_setTx (s : State) (x y : TxRegs) : (s.setTx x).setTx y = s.setTx y := rfl
@[simp] theorem setTx_self (s : State) : s.setTx s.tx = s := rfl

@[simp] theorem setPay_params (s : State) (x : Memory) : (s.setPay x).params = s.params := rfl
@[simp] theorem setPay_rx (s : State) (x : Memory) : (s.setPay x).rx = s.rx := rfl
@[simp] theorem setPay_rxBuf (s : State) (x : Memory) : (s.setPay x).rxBuf = s.rxBuf := rfl
@[simp] theorem setPay_evt (s : State) (x : Memory) : (s.setPay x).evt = s.evt := rfl
@[simp] theorem setPay_tx (s : State) (x : Memory) : (s.setPay x).tx = s.tx := rfl
@[simp] theorem setPay_pay (s : State) (x : Memory) : (s.setPay x).pay = x := rfl
@[simp] theorem setPay_powerOn (s : State) (x : Memory) : (s.setPay x).powerOn = s.powerOn := rfl
@[simp] theorem setPay_rxFault (s : State) (x : Memory) : (s.setPay x).rxFault = s.rxFault := rfl
@[simp] theorem setPay_txFault (s : State) (x : Memory) : (s.setPay x).txFault = s.txFault := rfl
@[simp] theorem setPay_env (s : State) (x : Memory) : (s.setPay x).env = s.env := rfl
@[simp] theorem setPay_obs (s : State) (x : Memory) : (s.setPay x).obs = s.obs := rfl
@[simp] theorem setPay_setPay (s : State) (x y : Memory) : (s.setPay x).setPay y = s.setPay y := rfl
@[simp] theorem setPay_self (s : State) : s.setPay s.pay = s := rfl

@[simp] theorem setRxFault_params (s : State) (x : Option Fault) : (s.setRxFault x).params = s.params := rfl
@[simp] theorem setRxFault_rx (s : State) (x : Option Fault) : (s.setRxFault x).rx = s.rx := rfl
@[simp] theorem setRxFault_rxBuf (s : State) (x : Option Fault) : (s.setRxFault x).rxBuf = s.rxBuf := rfl
@[simp] theorem setRxFault_evt (s : State) (x : Option Fault) : (s.setRxFault x).evt = s.evt := rfl
@[simp] theorem setRxFault_tx (s : State) (x : Option Fault) : (s.setRxFault x).tx = s.tx := rfl
@[simp] theorem setRxFault_pay (s : State) (x : Option Fault) : (s.setRxFault x).pay = s.pay := rfl
@[simp] theorem setRxFault_powerOn (s : State) (x : Option Fault) : (s.setRxFault x).powerOn = s.powerOn := rfl
@[simp] theorem setRxFault_rxFault (s : State) (x : Option Fault) : (s.setRxFault x).rxFault = x := rfl
@[simp] theorem setRxFault_txFault (s : State) (x : Option Fault) : (s.setRxFault x).txFault = s.txFault := rfl
@[simp] theorem setRxFault_env (s : State) (x : Option Fault) : (s.setRxFault x).env = s.env := rfl
@[simp] theorem setRxFault_obs (s : State) (x : Option Fault) : (s.setRxFault x).obs = s.obs := rfl
@[simp] theorem setRxFault_setRxFault (s : State) (x y : Option Fault) : (s.setRxFault x).setRxFault y = s.setRxFault y := rfl
@[simp] theorem setRxFault_self (s : State) : s.setRxFault s.rxFault = s := rfl

@[simp] theorem setTxFault_params (s : State) (x : Option Fault) : (s.setTxFault x).params = s.params := rfl
@[simp] theorem setTxFault_rx (s : State) (x : Option Fault) : (s.setTxFault x).rx = s.rx := rfl
@[simp] theorem setTxFault_rxBuf (s : State) (x : Option Fault) : (s.setTxFault x).rxBuf = s.rxBuf := rfl
@[simp] theorem setTxFault_evt (s : State) (x : Option Fault) : (s.setTxFault x).evt = s.evt := rfl
@[simp] theorem setTxFault_tx (s : State) (x : Option Fault) : (s.setTxFault x).tx = s.tx := rfl
@[simp] theorem setTxFault_pay (s : State) (x : Option Fault) : (s.setTxFault x).pay = s.pay := rfl
@[simp] theorem setTxFault_powerOn (s : State) (x : Option Fault) : (s.setTxFault x).powerOn = s.powerOn := rfl
@[simp] theorem setTxFault_rxFault (s : State) (x : Option Fault) : (s.setTxFault x).rxFault = s.rxFault := rfl
@[simp] theorem setTxFault_txFault (s : State) (x : Option Fault) : (s.setTxFault x).txFault = x := rfl
@[simp] theorem setTxFault_env (s : State) (x : Option Fault) : (s.setTxFault x).env = s.env := rfl
@[simp] theorem setTxFault_obs (s : State) (x : Option Fault) : (s.setTxFault x).obs = s.obs := rfl
@[simp] theorem setTxFault_setTxFault (s : State) (x y : Option Fault) : (s.setTxFault x).setTxFault y = s.setTxFault y := rfl
@[simp] theorem setTxFault_self (s : State) : s.setTxFault s.txFault = s := rfl

@[simp] theorem setEnv_params (s : State) (x : Env) : (s.setEnv x).params = s.params := rfl
@[simp] theorem setEnv_rx (s : State) (x : Env) : (s.setEnv x).rx = s.rx := rfl
@[simp] theorem setEnv_rxBuf (s : State) (x : Env) : (s.setEnv x).rxBuf = s.rxBuf := rfl
@[simp] theorem setEnv_evt (s : State) (x : Env) : (s.setEnv x).evt = s.evt := rfl
@[simp] theorem setEnv_tx (s : State) (x : Env) : (s.setEnv x).tx = s.tx := rfl
@[simp] theorem setEnv_pay (s : State) (x : Env) : (s.setEnv x).pay = s.pay := rfl
@[simp] theorem setEnv_powerOn (s : State) (x : Env) : (s.setEnv x).powerOn = s.powerOn := rfl
@[simp] theorem setEnv_rxFault (s : State) (x : Env) : (s.setEnv x).rxFault = s.rxFault := rfl
@[simp] theorem setEnv_txFault (s : State) (x : Env) : (s.setEnv x).txFault = s.txFault := rfl
@[simp] theorem setEnv_env (s : State) (x : Env) : (s.setEnv x).env = x := rfl
@[simp] theorem setEnv_obs (s : State) (x : Env) : (s.setEnv x).obs = s.obs := rfl
@[simp] theorem setEnv_setEnv (s : State) (x y : Env) : (s.setEnv x).setEnv y = s.setEnv y := rfl
@[simp] theorem setEnv_self (s : State) : s.setEnv s.env = s := rfl

@[simp] theorem setObs_params (s : State) (x : Obs) : (s.setObs x).params = s.params := rfl
@[simp] theorem setObs_rx (s : State) (x : Obs) : (s.setObs x).rx = s.rx := rfl
@[simp] theorem setObs_rxBuf (s : State) (x : Obs) : (s.setObs x).rxBuf = s.rxBuf := rfl
@[simp] theorem setObs_evt (s : State) (x : Obs) : (s.setObs x).evt = s.evt := rfl
@[simp] theorem setObs_tx (s : State) (x : Obs) : (s.setObs x).tx = s.tx := rfl
@[simp] theorem setObs_pay (s : State) (x : Obs) : (s.setObs x).pay = s.pay := rfl
@[simp] theorem setObs_powerOn (s : State) (x : Obs) : (s.setObs x).powerOn = s.powerOn := rfl
@[simp] theorem setObs_rxFault (s : State) (x : Obs) : (s.setObs x).rxFault = s.rxFault := rfl
@[simp] theorem setObs_txFault (s : State) (x : Obs) : (s.setObs x).txFault = s.txFault := rfl
@[simp] theorem setObs_env (s : State) (x : Obs) : (s.setObs x).env = s.env := rfl
@[simp] theorem setObs_obs (s : State) (x : Obs) : (s.setObs x).obs = x := rfl
@[simp] theorem setObs_setObs (s : State) (x y : Obs) : (s.setObs x).setObs y = s.setObs y := rfl
@[simp] theorem setObs_self (s : State) : s.setObs s.obs = s := rfl

end Sys2Proof.Machine
end

