-- ==== Sys2Proof/Laws/Memory.lean ====
section
/-! SUPPORT. The laws of the sparse memory and of the reads and writes built on it. -/

namespace Sys2Proof.Machine

@[simp] theorem Memory.read_nil (a : Nat) : Memory.read [] a = none := rfl

/-- A read after a write gives the byte written at that address and the old byte elsewhere. -/
theorem Memory.read_write (m : Memory) (a : Nat) (v : Byte) (x : Nat) :
    Memory.read (Memory.write m a v) x = if x = a then some v else Memory.read m x := by
  induction m with
  | nil => simp [Memory.write, Memory.read]
  | cons c r ih =>
    obtain ⟨b, w⟩ := c
    simp only [Memory.write]
    split_ifs with h1 h2 h3 h4 <;> simp only [Memory.read]
    · simp [h2]
    · simp [h2]
    · subst h3; simp [h4]
    · subst h3; simp [h4]
    · rw [ih]; subst ‹x = a›; simp [h3]
    · rw [ih]; simp [*]

@[simp] theorem Memory.read_write_self (m : Memory) (a : Nat) (v : Byte) :
    Memory.read (Memory.write m a v) a = some v := by simp [Memory.read_write]

/-- The cells of a written memory: the new one, and old ones. -/
theorem Memory.mem_write {m : Memory} {a : Nat} {v : Byte} {c : Host.Cell}
    (h : c ∈ Memory.write m a v) : c = (a, v) ∨ c ∈ m := by
  induction m with
  | nil => simpa [Memory.write] using h
  | cons d r ih =>
    simp only [Memory.write] at h
    split_ifs at h <;> simp only [List.mem_cons] at h ⊢ <;> grind

/-- Strictly rising addresses, as a list predicate. -/
theorem Memory.wf_iff (m : Memory) :
    Memory.wf m = true ↔ m.Pairwise (fun c d => c.1 < d.1) := by
  induction m with
  | nil => simp [Memory.wf]
  | cons c r ih =>
    cases r with
    | nil => simp [Memory.wf]
    | cons d r =>
      simp only [Memory.wf, Bool.and_eq_true, decide_eq_true_eq, ih, List.pairwise_cons,
        List.mem_cons]
      constructor
      · rintro ⟨h1, h2, h3⟩
        exact ⟨fun e he => by rcases he with rfl | he; exacts [h1, lt_trans h1 (h2 e he)], h2, h3⟩
      · rintro ⟨h1, h2, h3⟩
        exact ⟨h1 d (Or.inl rfl), h2, h3⟩

/-- A write keeps the canonical form. -/
theorem Memory.wf_write {m : Memory} (h : Memory.wf m = true) (a : Nat) (v : Byte) :
    Memory.wf (Memory.write m a v) = true := by
  rw [Memory.wf_iff] at h ⊢
  induction m with
  | nil => simp [Memory.write]
  | cons c r ih =>
    rw [List.pairwise_cons] at h
    simp only [Memory.write]
    split_ifs with h1 h2
    · rw [List.pairwise_cons, List.pairwise_cons]
      refine ⟨fun e he => ?_, h⟩
      rcases List.mem_cons.1 he with rfl | he
      · exact h1
      · exact lt_trans h1 (h.1 e he)
    · subst h2
      exact List.pairwise_cons.2 ⟨h.1, h.2⟩
    · rw [List.pairwise_cons]
      refine ⟨fun e he => ?_, ih h.2⟩
      rcases Memory.mem_write he with rfl | he
      · show c.1 < a
        omega
      · exact h.1 e he

/-- `rxWrite` on an existing cell writes that cell. -/
theorem rxWrite_of_lt {s : State} {i : Half} (h : i < s.params.maxPacketSize) (v : Byte) :
    rxWrite s i v = s.setRxBuf (Memory.write s.rxBuf i.toNat v) := by simp [rxWrite, h]

/-- `rxWrite` at an index without a cell changes nothing. -/
theorem rxWrite_of_not_lt {s : State} {i : Half} (h : ¬ i < s.params.maxPacketSize) (v : Byte) :
    rxWrite s i v = s := by simp [rxWrite, h]

@[simp] theorem rxWrite_params (s : State) (i : Half) (v : Byte) : (rxWrite s i v).params = s.params := rfl
@[simp] theorem rxWrite_rx (s : State) (i : Half) (v : Byte) : (rxWrite s i v).rx = s.rx := rfl
@[simp] theorem rxWrite_evt (s : State) (i : Half) (v : Byte) : (rxWrite s i v).evt = s.evt := rfl
@[simp] theorem rxWrite_tx (s : State) (i : Half) (v : Byte) : (rxWrite s i v).tx = s.tx := rfl
@[simp] theorem rxWrite_pay (s : State) (i : Half) (v : Byte) : (rxWrite s i v).pay = s.pay := rfl
@[simp] theorem rxWrite_powerOn (s : State) (i : Half) (v : Byte) :
    (rxWrite s i v).powerOn = s.powerOn := rfl
@[simp] theorem rxWrite_rxFault (s : State) (i : Half) (v : Byte) :
    (rxWrite s i v).rxFault = s.rxFault := rfl
@[simp] theorem rxWrite_txFault (s : State) (i : Half) (v : Byte) :
    (rxWrite s i v).txFault = s.txFault := rfl
@[simp] theorem rxWrite_env (s : State) (i : Half) (v : Byte) : (rxWrite s i v).env = s.env := rfl
@[simp] theorem rxWrite_obs (s : State) (i : Half) (v : Byte) : (rxWrite s i v).obs = s.obs := rfl

/-- `rxWrite` keeps the canonical form. -/
theorem rxWrite_wf {s : State} (h : Memory.wf s.rxBuf = true) (i : Half) (v : Byte) :
    Memory.wf (rxWrite s i v).rxBuf = true := by
  by_cases hi : i < s.params.maxPacketSize
  · rw [rxWrite_of_lt hi]
    exact Memory.wf_write h _ _
  · rw [rxWrite_of_not_lt hi]
    exact h

/-- A cell of the buffer after a write. -/
theorem rxCell_write (s : State) (a : Nat) (v : Byte) (i : Nat) :
    rxCell (s.setRxBuf (Memory.write s.rxBuf a v)) i = if i = a then v else rxCell s i := by
  simp only [rxCell, setRxBuf_rxBuf, setRxBuf_powerOn, Memory.read_write]
  split_ifs <;> rfl

/-- A cell of the payload memory after a write. -/
theorem payByte_write (s : State) (a : Nat) (v : Byte) (i : Nat) :
    payByte (s.setPay (Memory.write s.pay a v)) i = if i = a then v else payByte s i := by
  simp only [payByte, setPay_pay, setPay_powerOn, Memory.read_write]
  split_ifs <;> rfl

/-- A read of the buffer depends on its cells and the power-on contents alone. -/
theorem rxCell_congr {s t : State} (hb : t.rxBuf = s.rxBuf) (hp : t.powerOn = s.powerOn) (i : Nat) :
    rxCell t i = rxCell s i := by simp [rxCell, hb, hp]

/-- A read of the payload memory depends on its cells and the power-on contents alone. -/
theorem payByte_congr {s t : State} (hb : t.pay = s.pay) (hp : t.powerOn = s.powerOn) (i : Nat) :
    payByte t i = payByte s i := by simp [payByte, hb, hp]

end Sys2Proof.Machine
end

