-- ==== Sys2Proof/Laws/Ops.lean ====
section
/-! SUPPORT. What each shared operation does: one lemma per field, and one inversion lemma per operation that
can answer more than one outcome. -/

namespace Sys2Proof.Machine

@[simp] theorem loadEvent_params (ty : BitVec 2) (er : BitVec 3) (t l c : Half) (b : Byte) (s : State) :
    (loadEvent ty er t l c b s).params = s.params := rfl
@[simp] theorem loadEvent_rx (ty : BitVec 2) (er : BitVec 3) (t l c : Half) (b : Byte) (s : State) :
    (loadEvent ty er t l c b s).rx = s.rx := rfl
@[simp] theorem loadEvent_rxBuf (ty : BitVec 2) (er : BitVec 3) (t l c : Half) (b : Byte) (s : State) :
    (loadEvent ty er t l c b s).rxBuf = s.rxBuf := rfl
@[simp] theorem loadEvent_evt (ty : BitVec 2) (er : BitVec 3) (t l c : Half) (b : Byte) (s : State) :
    (loadEvent ty er t l c b s).evt = ⟨true, ty, er, t, l, c, b⟩ := rfl
@[simp] theorem loadEvent_tx (ty : BitVec 2) (er : BitVec 3) (t l c : Half) (b : Byte) (s : State) :
    (loadEvent ty er t l c b s).tx = s.tx := rfl
@[simp] theorem loadEvent_pay (ty : BitVec 2) (er : BitVec 3) (t l c : Half) (b : Byte) (s : State) :
    (loadEvent ty er t l c b s).pay = s.pay := rfl
@[simp] theorem loadEvent_powerOn (ty : BitVec 2) (er : BitVec 3) (t l c : Half) (b : Byte) (s : State) :
    (loadEvent ty er t l c b s).powerOn = s.powerOn := rfl
@[simp] theorem loadEvent_rxFault (ty : BitVec 2) (er : BitVec 3) (t l c : Half) (b : Byte) (s : State) :
    (loadEvent ty er t l c b s).rxFault = s.rxFault := rfl
@[simp] theorem loadEvent_txFault (ty : BitVec 2) (er : BitVec 3) (t l c : Half) (b : Byte) (s : State) :
    (loadEvent ty er t l c b s).txFault = s.txFault := rfl
@[simp] theorem loadEvent_env (ty : BitVec 2) (er : BitVec 3) (t l c : Half) (b : Byte) (s : State) :
    (loadEvent ty er t l c b s).env = s.env := rfl
@[simp] theorem loadEvent_obs (ty : BitVec 2) (er : BitVec 3) (t l c : Half) (b : Byte) (s : State) :
    (loadEvent ty er t l c b s).obs = s.obs := rfl

@[simp] theorem raiseError_params (k : ErrorKind) (t l c : Half) (b : Byte) (s : State) :
    (raiseError k t l c b s).params = s.params := rfl
@[simp] theorem raiseError_rx (k : ErrorKind) (t l c : Half) (b : Byte) (s : State) :
    (raiseError k t l c b s).rx = s.rx := rfl
@[simp] theorem raiseError_rxBuf (k : ErrorKind) (t l c : Half) (b : Byte) (s : State) :
    (raiseError k t l c b s).rxBuf = s.rxBuf := rfl
@[simp] theorem raiseError_evt (k : ErrorKind) (t l c : Half) (b : Byte) (s : State) :
    (raiseError k t l c b s).evt = ⟨true, EvtType.error, k.code, t, l, c, b⟩ := rfl
@[simp] theorem raiseError_tx (k : ErrorKind) (t l c : Half) (b : Byte) (s : State) :
    (raiseError k t l c b s).tx = s.tx := rfl
@[simp] theorem raiseError_pay (k : ErrorKind) (t l c : Half) (b : Byte) (s : State) :
    (raiseError k t l c b s).pay = s.pay := rfl
@[simp] theorem raiseError_powerOn (k : ErrorKind) (t l c : Half) (b : Byte) (s : State) :
    (raiseError k t l c b s).powerOn = s.powerOn := rfl
@[simp] theorem raiseError_rxFault (k : ErrorKind) (t l c : Half) (b : Byte) (s : State) :
    (raiseError k t l c b s).rxFault = s.rxFault := rfl
@[simp] theorem raiseError_txFault (k : ErrorKind) (t l c : Half) (b : Byte) (s : State) :
    (raiseError k t l c b s).txFault = s.txFault := rfl
@[simp] theorem raiseError_env (k : ErrorKind) (t l c : Half) (b : Byte) (s : State) :
    (raiseError k t l c b s).env = s.env := rfl
@[simp] theorem raiseError_obs (k : ErrorKind) (t l c : Half) (b : Byte) (s : State) :
    (raiseError k t l c b s).obs = s.obs := rfl

@[simp] theorem signalPacket_params (t l c : Half) (b : Byte) (s : State) :
    (signalPacket t l c b s).params = s.params := rfl
@[simp] theorem signalPacket_rx (t l c : Half) (b : Byte) (s : State) :
    (signalPacket t l c b s).rx = s.rx := rfl
@[simp] theorem signalPacket_rxBuf (t l c : Half) (b : Byte) (s : State) :
    (signalPacket t l c b s).rxBuf = s.rxBuf := rfl
@[simp] theorem signalPacket_evt (t l c : Half) (b : Byte) (s : State) :
    (signalPacket t l c b s).evt = ⟨true, EvtType.packet, 0#3, t, l, c, b⟩ := rfl
@[simp] theorem signalPacket_tx (t l c : Half) (b : Byte) (s : State) :
    (signalPacket t l c b s).tx = s.tx := rfl
@[simp] theorem signalPacket_pay (t l c : Half) (b : Byte) (s : State) :
    (signalPacket t l c b s).pay = s.pay := rfl
@[simp] theorem signalPacket_powerOn (t l c : Half) (b : Byte) (s : State) :
    (signalPacket t l c b s).powerOn = s.powerOn := rfl
@[simp] theorem signalPacket_rxFault (t l c : Half) (b : Byte) (s : State) :
    (signalPacket t l c b s).rxFault = s.rxFault := rfl
@[simp] theorem signalPacket_txFault (t l c : Half) (b : Byte) (s : State) :
    (signalPacket t l c b s).txFault = s.txFault := rfl
@[simp] theorem signalPacket_env (t l c : Half) (b : Byte) (s : State) :
    (signalPacket t l c b s).env = s.env := rfl
@[simp] theorem signalPacket_obs (t l c : Half) (b : Byte) (s : State) :
    (signalPacket t l c b s).obs = s.obs := rfl

@[simp] theorem signalBoundary_params (b : Byte) (s : State) :
    (signalBoundary b s).params = s.params := rfl
@[simp] theorem signalBoundary_rx (b : Byte) (s : State) :
    (signalBoundary b s).rx = s.rx := rfl
@[simp] theorem signalBoundary_rxBuf (b : Byte) (s : State) :
    (signalBoundary b s).rxBuf = s.rxBuf := rfl
@[simp] theorem signalBoundary_evt (b : Byte) (s : State) :
    (signalBoundary b s).evt = ⟨true, EvtType.boundary, 0#3, 0#16, 0#16, 0#16, b⟩ := rfl
@[simp] theorem signalBoundary_tx (b : Byte) (s : State) :
    (signalBoundary b s).tx = s.tx := rfl
@[simp] theorem signalBoundary_pay (b : Byte) (s : State) :
    (signalBoundary b s).pay = s.pay := rfl
@[simp] theorem signalBoundary_powerOn (b : Byte) (s : State) :
    (signalBoundary b s).powerOn = s.powerOn := rfl
@[simp] theorem signalBoundary_rxFault (b : Byte) (s : State) :
    (signalBoundary b s).rxFault = s.rxFault := rfl
@[simp] theorem signalBoundary_txFault (b : Byte) (s : State) :
    (signalBoundary b s).txFault = s.txFault := rfl
@[simp] theorem signalBoundary_env (b : Byte) (s : State) :
    (signalBoundary b s).env = s.env := rfl
@[simp] theorem signalBoundary_obs (b : Byte) (s : State) :
    (signalBoundary b s).obs = s.obs := rfl

@[simp] theorem takeEvent_params (s : State) :
    (takeEvent s).params = s.params := rfl
@[simp] theorem takeEvent_rx (s : State) :
    (takeEvent s).rx = s.rx := rfl
@[simp] theorem takeEvent_rxBuf (s : State) :
    (takeEvent s).rxBuf = s.rxBuf := rfl
@[simp] theorem takeEvent_evt (s : State) :
    (takeEvent s).evt = { s.evt with pending := false } := rfl
@[simp] theorem takeEvent_tx (s : State) :
    (takeEvent s).tx = s.tx := rfl
@[simp] theorem takeEvent_pay (s : State) :
    (takeEvent s).pay = s.pay := rfl
@[simp] theorem takeEvent_powerOn (s : State) :
    (takeEvent s).powerOn = s.powerOn := rfl
@[simp] theorem takeEvent_rxFault (s : State) :
    (takeEvent s).rxFault = s.rxFault := rfl
@[simp] theorem takeEvent_txFault (s : State) :
    (takeEvent s).txFault = s.txFault := rfl
@[simp] theorem takeEvent_env (s : State) :
    (takeEvent s).env = s.env := rfl
@[simp] theorem takeEvent_obs (s : State) :
    (takeEvent s).obs = { s.obs with events := s.obs.events ++ [takenEvent s] } := rfl

@[simp] theorem enterWfh_params (s : State) :
    (enterWfh s).params = s.params := rfl
@[simp] theorem enterWfh_rx (s : State) :
    (enterWfh s).rx = RxRegs.reset := rfl
@[simp] theorem enterWfh_rxBuf (s : State) :
    (enterWfh s).rxBuf = s.rxBuf := rfl
@[simp] theorem enterWfh_evt (s : State) :
    (enterWfh s).evt = s.evt := rfl
@[simp] theorem enterWfh_tx (s : State) :
    (enterWfh s).tx = s.tx := rfl
@[simp] theorem enterWfh_pay (s : State) :
    (enterWfh s).pay = s.pay := rfl
@[simp] theorem enterWfh_powerOn (s : State) :
    (enterWfh s).powerOn = s.powerOn := rfl
@[simp] theorem enterWfh_rxFault (s : State) :
    (enterWfh s).rxFault = s.rxFault := rfl
@[simp] theorem enterWfh_txFault (s : State) :
    (enterWfh s).txFault = s.txFault := rfl
@[simp] theorem enterWfh_env (s : State) :
    (enterWfh s).env = s.env := rfl
@[simp] theorem enterWfh_obs (s : State) :
    (enterWfh s).obs = s.obs := rfl

@[simp] theorem startFrame_params (s : State) :
    (startFrame s).params = s.params := rfl
@[simp] theorem startFrame_rx (s : State) :
    (startFrame s).rx = ⟨RxState.rck, 0#1, 0#16, 0#16, 0#16, 0#16⟩ := rfl
@[simp] theorem startFrame_rxBuf (s : State) :
    (startFrame s).rxBuf = s.rxBuf := rfl
@[simp] theorem startFrame_evt (s : State) :
    (startFrame s).evt = s.evt := rfl
@[simp] theorem startFrame_tx (s : State) :
    (startFrame s).tx = s.tx := rfl
@[simp] theorem startFrame_pay (s : State) :
    (startFrame s).pay = s.pay := rfl
@[simp] theorem startFrame_powerOn (s : State) :
    (startFrame s).powerOn = s.powerOn := rfl
@[simp] theorem startFrame_rxFault (s : State) :
    (startFrame s).rxFault = s.rxFault := rfl
@[simp] theorem startFrame_txFault (s : State) :
    (startFrame s).txFault = s.txFault := rfl
@[simp] theorem startFrame_env (s : State) :
    (startFrame s).env = s.env := rfl
@[simp] theorem startFrame_obs (s : State) :
    (startFrame s).obs = s.obs := rfl

@[simp] theorem emit_params (b : Byte) (s : State) :
    (emit b s).params = s.params := rfl
@[simp] theorem emit_rx (b : Byte) (s : State) :
    (emit b s).rx = s.rx := rfl
@[simp] theorem emit_rxBuf (b : Byte) (s : State) :
    (emit b s).rxBuf = s.rxBuf := rfl
@[simp] theorem emit_evt (b : Byte) (s : State) :
    (emit b s).evt = s.evt := rfl
@[simp] theorem emit_tx (b : Byte) (s : State) :
    (emit b s).tx = s.tx := rfl
@[simp] theorem emit_pay (b : Byte) (s : State) :
    (emit b s).pay = s.pay := rfl
@[simp] theorem emit_powerOn (b : Byte) (s : State) :
    (emit b s).powerOn = s.powerOn := rfl
@[simp] theorem emit_rxFault (b : Byte) (s : State) :
    (emit b s).rxFault = s.rxFault := rfl
@[simp] theorem emit_txFault (b : Byte) (s : State) :
    (emit b s).txFault = s.txFault := rfl
@[simp] theorem emit_env (b : Byte) (s : State) :
    (emit b s).env = s.env := rfl
@[simp] theorem emit_obs (b : Byte) (s : State) :
    (emit b s).obs = { s.obs with txBytes := s.obs.txBytes ++ [b] } := rfl

@[simp] theorem setPhase_params (ph : BitVec 4) (s : State) :
    (setPhase ph s).params = s.params := rfl
@[simp] theorem setPhase_rx (ph : BitVec 4) (s : State) :
    (setPhase ph s).rx = s.rx := rfl
@[simp] theorem setPhase_rxBuf (ph : BitVec 4) (s : State) :
    (setPhase ph s).rxBuf = s.rxBuf := rfl
@[simp] theorem setPhase_evt (ph : BitVec 4) (s : State) :
    (setPhase ph s).evt = s.evt := rfl
@[simp] theorem setPhase_tx (ph : BitVec 4) (s : State) :
    (setPhase ph s).tx = { s.tx with phase := ph } := rfl
@[simp] theorem setPhase_pay (ph : BitVec 4) (s : State) :
    (setPhase ph s).pay = s.pay := rfl
@[simp] theorem setPhase_powerOn (ph : BitVec 4) (s : State) :
    (setPhase ph s).powerOn = s.powerOn := rfl
@[simp] theorem setPhase_rxFault (ph : BitVec 4) (s : State) :
    (setPhase ph s).rxFault = s.rxFault := rfl
@[simp] theorem setPhase_txFault (ph : BitVec 4) (s : State) :
    (setPhase ph s).txFault = s.txFault := rfl
@[simp] theorem setPhase_env (ph : BitVec 4) (s : State) :
    (setPhase ph s).env = s.env := rfl
@[simp] theorem setPhase_obs (ph : BitVec 4) (s : State) :
    (setPhase ph s).obs = s.obs := rfl

@[simp] theorem nextPayloadByte_params (s : State) :
    (nextPayloadByte s).params = s.params := rfl
@[simp] theorem nextPayloadByte_rx (s : State) :
    (nextPayloadByte s).rx = s.rx := rfl
@[simp] theorem nextPayloadByte_rxBuf (s : State) :
    (nextPayloadByte s).rxBuf = s.rxBuf := rfl
@[simp] theorem nextPayloadByte_evt (s : State) :
    (nextPayloadByte s).evt = s.evt := rfl
@[simp] theorem nextPayloadByte_tx (s : State) :
    (nextPayloadByte s).tx = { s.tx with idx := s.tx.idx + 1#16, phase := if s.tx.idx + 1#16 = s.tx.len then TxPhase.idle else TxPhase.data } := rfl
@[simp] theorem nextPayloadByte_pay (s : State) :
    (nextPayloadByte s).pay = s.pay := rfl
@[simp] theorem nextPayloadByte_powerOn (s : State) :
    (nextPayloadByte s).powerOn = s.powerOn := rfl
@[simp] theorem nextPayloadByte_rxFault (s : State) :
    (nextPayloadByte s).rxFault = s.rxFault := rfl
@[simp] theorem nextPayloadByte_txFault (s : State) :
    (nextPayloadByte s).txFault = s.txFault := rfl
@[simp] theorem nextPayloadByte_env (s : State) :
    (nextPayloadByte s).env = s.env := rfl
@[simp] theorem nextPayloadByte_obs (s : State) :
    (nextPayloadByte s).obs = s.obs := rfl

@[simp] theorem recordRxFault_params (f : Fault) (s : State) :
    (recordRxFault f s).params = s.params := rfl
@[simp] theorem recordRxFault_rx (f : Fault) (s : State) :
    (recordRxFault f s).rx = s.rx := rfl
@[simp] theorem recordRxFault_rxBuf (f : Fault) (s : State) :
    (recordRxFault f s).rxBuf = s.rxBuf := rfl
@[simp] theorem recordRxFault_evt (f : Fault) (s : State) :
    (recordRxFault f s).evt = s.evt := rfl
@[simp] theorem recordRxFault_tx (f : Fault) (s : State) :
    (recordRxFault f s).tx = s.tx := rfl
@[simp] theorem recordRxFault_pay (f : Fault) (s : State) :
    (recordRxFault f s).pay = s.pay := rfl
@[simp] theorem recordRxFault_powerOn (f : Fault) (s : State) :
    (recordRxFault f s).powerOn = s.powerOn := rfl
@[simp] theorem recordRxFault_rxFault (f : Fault) (s : State) :
    (recordRxFault f s).rxFault = some f := rfl
@[simp] theorem recordRxFault_txFault (f : Fault) (s : State) :
    (recordRxFault f s).txFault = s.txFault := rfl
@[simp] theorem recordRxFault_env (f : Fault) (s : State) :
    (recordRxFault f s).env = s.env := rfl
@[simp] theorem recordRxFault_obs (f : Fault) (s : State) :
    (recordRxFault f s).obs = s.obs := rfl

@[simp] theorem recordTxFault_params (f : Fault) (s : State) :
    (recordTxFault f s).params = s.params := rfl
@[simp] theorem recordTxFault_rx (f : Fault) (s : State) :
    (recordTxFault f s).rx = s.rx := rfl
@[simp] theorem recordTxFault_rxBuf (f : Fault) (s : State) :
    (recordTxFault f s).rxBuf = s.rxBuf := rfl
@[simp] theorem recordTxFault_evt (f : Fault) (s : State) :
    (recordTxFault f s).evt = s.evt := rfl
@[simp] theorem recordTxFault_tx (f : Fault) (s : State) :
    (recordTxFault f s).tx = s.tx := rfl
@[simp] theorem recordTxFault_pay (f : Fault) (s : State) :
    (recordTxFault f s).pay = s.pay := rfl
@[simp] theorem recordTxFault_powerOn (f : Fault) (s : State) :
    (recordTxFault f s).powerOn = s.powerOn := rfl
@[simp] theorem recordTxFault_rxFault (f : Fault) (s : State) :
    (recordTxFault f s).rxFault = s.rxFault := rfl
@[simp] theorem recordTxFault_txFault (f : Fault) (s : State) :
    (recordTxFault f s).txFault = some f := rfl
@[simp] theorem recordTxFault_env (f : Fault) (s : State) :
    (recordTxFault f s).env = s.env := rfl
@[simp] theorem recordTxFault_obs (f : Fault) (s : State) :
    (recordTxFault f s).obs = s.obs := rfl

/-! ## dispatchFrame -/

/-- Dispatching loads an event and changes nothing else. -/
theorem dispatchFrame_eq (bytes : List Byte) (b : Byte) (s : State) :
    dispatchFrame bytes b s = s.setEvt (frameEvent bytes s.rx.chk s.rx.topic s.rx.len b) := by
  unfold dispatchFrame frameEvent
  split_ifs <;> rfl

/-! ## complete and store -/

/-- The event a completed frame loads. -/
def completionEvt (s : State) (b : Byte) : EvtRegs :=
  frameEvent (rxBytes s s.rx.len) s.rx.chk s.rx.topic s.rx.len b

theorem complete_eq (s : State) (b : Byte) :
    complete b s = (s.setEvt (completionEvt s b)).setRx RxRegs.reset := by
  simp only [complete, dispatchFrame_eq]
  rfl

/-- The state after `store` has written its byte and counted it. -/
def stored (s : State) (b : Byte) : State :=
  (rxWrite s s.rx.count b).setRx
    { s.rx with state := RxState.rdata, count := s.rx.count + 1#16 }

@[simp] theorem stored_params (s : State) (b : Byte) : (stored s b).params = s.params := rfl
@[simp] theorem stored_rx (s : State) (b : Byte) :
    (stored s b).rx = { s.rx with state := RxState.rdata, count := s.rx.count + 1#16 } := rfl
@[simp] theorem stored_evt (s : State) (b : Byte) : (stored s b).evt = s.evt := rfl
@[simp] theorem stored_tx (s : State) (b : Byte) : (stored s b).tx = s.tx := rfl
@[simp] theorem stored_pay (s : State) (b : Byte) : (stored s b).pay = s.pay := rfl
@[simp] theorem stored_powerOn (s : State) (b : Byte) : (stored s b).powerOn = s.powerOn := rfl
@[simp] theorem stored_rxFault (s : State) (b : Byte) : (stored s b).rxFault = s.rxFault := rfl
@[simp] theorem stored_txFault (s : State) (b : Byte) : (stored s b).txFault = s.txFault := rfl
@[simp] theorem stored_env (s : State) (b : Byte) : (stored s b).env = s.env := rfl
@[simp] theorem stored_obs (s : State) (b : Byte) : (stored s b).obs = s.obs := rfl

/-- The buffer after a store to an existing cell. -/
theorem stored_rxBuf_of_lt {s : State} (h : s.rx.count < s.params.maxPacketSize) (b : Byte) :
    (stored s b).rxBuf = Memory.write s.rxBuf s.rx.count.toNat b := by
  rw [stored, rxWrite_of_lt h]
  rfl

/-- The buffer after a store where no cell exists. -/
theorem stored_rxBuf_of_not_lt {s : State} (h : ¬ s.rx.count < s.params.maxPacketSize) (b : Byte) :
    (stored s b).rxBuf = s.rxBuf := by
  rw [stored, rxWrite_of_not_lt h]
  rfl

/-- Everything `store` can do: the guard, a byte with more to come, the last byte. -/
theorem store_eq (s : State) (b : Byte) :
    store b s =
      if s.rx.len ≤ s.rx.count then
        (s.setEvt ⟨true, EvtType.error, 1#3, s.rx.topic, s.rx.len, s.rx.count, b⟩).setRx RxRegs.reset
      else if s.rx.count + 1#16 = s.rx.len then
        ((stored s b).setEvt (completionEvt (stored s b) b)).setRx RxRegs.reset
      else stored s b := by
  simp only [store, countStored, complete_eq]
  rfl

/-! ## Enabling -/

theorem onRxHalf_next {s t : State} {r : Result} (h : onRxHalf s r = .next t) :
    s.rxFault = none ∧ r = .next t := by
  unfold onRxHalf at h
  split at h
  · cases h
  · exact ⟨‹_›, h⟩

theorem onTxHalf_next {s t : State} {r : Result} (h : onTxHalf s r = .next t) :
    s.txFault = none ∧ r = .next t := by
  unfold onTxHalf at h
  split at h
  · cases h
  · exact ⟨‹_›, h⟩

/-- An RxByte step that runs: no fault recorded, no event pending. -/
theorem rxByteStep_ready {s : State} (hf : s.rxFault = none) (hp : s.evt.pending = false)
    (r : Result) : rxByteStep s r = r := by simp [rxByteStep, onRxHalf, hf, rxReady, hp]

/-- An RxByte step while an event is pending changes nothing. -/
theorem rxByteStep_stalled {s : State} (hp : s.evt.pending = true) (r : Result) :
    rxByteStep s r = .next s := by simp [rxByteStep, rxReady, hp]

theorem rxByteStep_next {s t : State} {r : Result} (h : rxByteStep s r = .next t) :
    (s.evt.pending = true ∧ t = s) ∨
      (s.evt.pending = false ∧ s.rxFault = none ∧ r = .next t) := by
  cases hp : s.evt.pending <;> simp [rxByteStep, rxReady, hp] at h
  · exact .inr ⟨rfl, onRxHalf_next h⟩
  · exact .inl ⟨rfl, h.symm⟩

/-- A Timeout that is enabled, with no fault recorded. -/
theorem timeoutStep_enabled {s : State} (hf : s.rxFault = none) (he : timeoutEnabled s = true)
    (r : Result) : timeoutStep s r = r := by simp [timeoutStep, onRxHalf, hf, he]

/-- A Timeout that is not enabled changes nothing. -/
theorem timeoutStep_disabled {s : State} (he : timeoutEnabled s = false) (r : Result) :
    timeoutStep s r = .next s := by simp [timeoutStep, he]

theorem timeoutStep_next {s t : State} {r : Result} (h : timeoutStep s r = .next t) :
    (timeoutEnabled s = false ∧ t = s) ∨
      (timeoutEnabled s = true ∧ s.rxFault = none ∧ r = .next t) := by
  cases he : timeoutEnabled s <;> simp [timeoutStep, he] at h
  · exact .inl ⟨rfl, h.symm⟩
  · exact .inr ⟨rfl, onRxHalf_next h⟩

/-- A TxCmd step that is accepted. -/
theorem txCmdStep_idle {s : State} (hf : s.txFault = none) (hp : s.tx.phase = TxPhase.idle)
    (r : Result) : txCmdStep s r = r := by simp [txCmdStep, onTxHalf, hf, cmdReady, hp]

/-- A TxCmd step while the serializer is busy changes nothing. -/
theorem txCmdStep_busy {s : State} (hp : s.tx.phase ≠ TxPhase.idle) (r : Result) :
    txCmdStep s r = .next s := by simp [txCmdStep, cmdReady, hp]

theorem txCmdStep_next {s t : State} {r : Result} (h : txCmdStep s r = .next t) :
    (s.tx.phase ≠ TxPhase.idle ∧ t = s) ∨
      (s.tx.phase = TxPhase.idle ∧ s.txFault = none ∧ r = .next t) := by
  by_cases hp : s.tx.phase = TxPhase.idle <;> simp [txCmdStep, cmdReady, hp] at h
  · exact .inr ⟨hp, onTxHalf_next h⟩
  · exact .inl ⟨hp, h.symm⟩

/-- A TxEmit step that transfers a byte. -/
theorem txEmitStep_valid {s : State} (hf : s.txFault = none) (hp : s.tx.phase ≠ TxPhase.idle)
    (r : Result) : txEmitStep s r = r := by simp [txEmitStep, onTxHalf, hf, txValid, hp]

theorem txEmitStep_next {s t : State} {r : Result} (h : txEmitStep s r = .next t) :
    (s.tx.phase = TxPhase.idle ∧ t = s) ∨
      (s.tx.phase ≠ TxPhase.idle ∧ s.txFault = none ∧ r = .next t) := by
  by_cases hp : s.tx.phase = TxPhase.idle <;> simp [txEmitStep, txValid, hp] at h
  · exact .inl ⟨hp, h.symm⟩
  · exact .inr ⟨hp, onTxHalf_next h⟩

/-! ## What a half's step can stop with -/

/-- The steps of the RX half stop only with the fault recorded on it, and refuse only where their row does. -/
theorem onRxHalf_fault {s : State} {r : Result} {f : Fault} (h : onRxHalf s r = .fault f) :
    s.rxFault = some f ∨ r = .fault f := by
  unfold onRxHalf at h
  split at h
  · cases h
    exact .inl ‹_›
  · exact .inr h

theorem onTxHalf_fault {s : State} {r : Result} {f : Fault} (h : onTxHalf s r = .fault f) :
    s.txFault = some f ∨ r = .fault f := by
  unfold onTxHalf at h
  split at h
  · cases h
    exact .inl ‹_›
  · exact .inr h

end Sys2Proof.Machine
end

