-- ==== Sys2Proof/Laws/Step.lean ====
section
/-! SUPPORT. Everything one step can be: the inversion lemmas of step, of takeAction and of each action. -/

namespace Sys2Proof.Machine

/-- A step with nothing chosen, or the next chosen action. -/
theorem step_cons {s : State} {a : Action} {rest : List Action} (h : s.env.sched = a :: rest) :
    step s = takeAction a (dropAction s) := by
  simp [step, h, dropAction]

theorem step_nil {s : State} (h : s.env.sched = []) : step s = .next s := by simp [step, h]

/-- Inversion of `step`. -/
theorem step_next {s t : State} (h : step s = .next t) :
    (s.env.sched = [] ∧ t = s) ∨
      ∃ a, nextAction s = some a ∧ takeAction a (dropAction s) = .next t := by
  cases hs : s.env.sched with
  | nil =>
    rw [step_nil hs] at h
    exact .inl ⟨rfl, by simpa using h.symm⟩
  | cons a rest =>
    rw [step_cons hs] at h
    exact .inr ⟨a, by simp [nextAction, hs], h⟩

/-- The state an RX row runs in: its byte has left the port. -/
def tookByte (s : State) : State := s.setEnv { s.env with rxIn := s.env.rxIn.tail }

/-- The state a command runs in: it has left the port. -/
def tookCmd (s : State) : State := s.setEnv { s.env with cmdIn := s.env.cmdIn.tail }

/-- RxByte with a byte on a ready port. -/
theorem takeAction_rxByte {s : State} {b : Byte} {bs : List Byte} (h : s.env.rxIn = b :: bs)
    (hp : s.evt.pending = false) :
    takeAction .rxByte s = exec (decodeRx s.params (rxWord s.rx.state b)) (tookByte s) := by
  simp [takeAction, runAction, fetch, h, rxReady, hp, runWord, decode, tookByte]

/-- RxByte without a transfer. -/
theorem takeAction_rxByte_none {s : State} (h : s.env.rxIn = [] ∨ s.evt.pending = true) :
    takeAction .rxByte s = .next s := by
  rcases h with h | h
  · simp [takeAction, runAction, fetch, h]
  · cases hr : s.env.rxIn <;> simp [takeAction, runAction, fetch, hr, rxReady, h]

/-- Inversion of RxByte. -/
theorem takeAction_rxByte_next {s t : State} (h : takeAction .rxByte s = .next t) :
    ((s.env.rxIn = [] ∨ s.evt.pending = true) ∧ t = s) ∨
      ∃ b bs, s.env.rxIn = b :: bs ∧ s.evt.pending = false ∧
        exec (decodeRx s.params (rxWord s.rx.state b)) (tookByte s) = .next t := by
  cases hr : s.env.rxIn with
  | nil =>
    rw [takeAction_rxByte_none (.inl hr)] at h
    exact .inl ⟨.inl rfl, by simpa using h.symm⟩
  | cons b bs =>
    cases hp : s.evt.pending with
    | true =>
      rw [takeAction_rxByte_none (.inr hp)] at h
      exact .inl ⟨.inr rfl, by simpa using h.symm⟩
    | false =>
      rw [takeAction_rxByte hr hp] at h
      exact .inr ⟨b, bs, rfl, rfl, h⟩

/-- TxCmd with a command on a ready port. -/
theorem takeAction_txCmd {s : State} {c : BitVec 33} {cs : List (BitVec 33)}
    (h : s.env.cmdIn = c :: cs) (hp : s.tx.phase = TxPhase.idle) :
    takeAction .txCmd s = exec (decodeTxCmd c) (tookCmd s) := by
  simp [takeAction, runAction, fetch, h, cmdReady, hp, runWord, decode, tookCmd]

/-- TxCmd without a transfer. -/
theorem takeAction_txCmd_none {s : State} (h : s.env.cmdIn = [] ∨ s.tx.phase ≠ TxPhase.idle) :
    takeAction .txCmd s = .next s := by
  rcases h with h | h
  · simp [takeAction, runAction, fetch, h]
  · cases hr : s.env.cmdIn <;> simp [takeAction, runAction, fetch, hr, cmdReady, h]

/-- Inversion of TxCmd. -/
theorem takeAction_txCmd_next {s t : State} (h : takeAction .txCmd s = .next t) :
    ((s.env.cmdIn = [] ∨ s.tx.phase ≠ TxPhase.idle) ∧ t = s) ∨
      ∃ c cs, s.env.cmdIn = c :: cs ∧ s.tx.phase = TxPhase.idle ∧
        exec (decodeTxCmd c) (tookCmd s) = .next t := by
  cases hr : s.env.cmdIn with
  | nil =>
    rw [takeAction_txCmd_none (.inl hr)] at h
    exact .inl ⟨.inl rfl, by simpa using h.symm⟩
  | cons c cs =>
    by_cases hp : s.tx.phase = TxPhase.idle
    · rw [takeAction_txCmd hr hp] at h
      exact .inr ⟨c, cs, rfl, hp, h⟩
    · rw [takeAction_txCmd_none (.inr hp)] at h
      exact .inl ⟨.inr hp, by simpa using h.symm⟩

/-- The emit decoder has a row for every phase but IDLE. -/
theorem decodeTxEmit_ok {e : BitVec 4} (h : e ≠ TxPhase.idle) : ∃ i, decodeTxEmit e = .ok i := by
  have hb : ∀ e : BitVec 4, e ≠ TxPhase.idle → (decodeTxEmit e).toBool = true := by decide
  have h := hb e h
  cases hd : decodeTxEmit e with
  | ok i => exact ⟨i, rfl⟩
  | error r => simp [hd, Except.toBool] at h

/-- TxEmit in a phase other than IDLE. -/
theorem takeAction_txEmit {s : State} {i : Instr} (hp : s.tx.phase ≠ TxPhase.idle)
    (hi : decodeTxEmit s.tx.phase = .ok i) : takeAction .txEmit s = exec i s := by
  simp [takeAction, runAction, fetch, txValid, hp, runWord, decode, hi]

theorem takeAction_txEmit_idle {s : State} (hp : s.tx.phase = TxPhase.idle) :
    takeAction .txEmit s = .next s := by
  simp [takeAction, runAction, fetch, txValid, hp]

/-- Inversion of TxEmit. -/
theorem takeAction_txEmit_next {s t : State} (h : takeAction .txEmit s = .next t) :
    (s.tx.phase = TxPhase.idle ∧ t = s) ∨
      ∃ i, s.tx.phase ≠ TxPhase.idle ∧ decodeTxEmit s.tx.phase = .ok i ∧ exec i s = .next t := by
  by_cases hp : s.tx.phase = TxPhase.idle
  · rw [takeAction_txEmit_idle hp] at h
    exact .inl ⟨hp, by simpa using h.symm⟩
  · obtain ⟨i, hi⟩ := decodeTxEmit_ok hp
    rw [takeAction_txEmit hp hi] at h
    exact .inr ⟨i, hp, hi, h⟩

@[simp] theorem takeAction_evtAck (s : State) : takeAction .evtAck s = exec .evtAck s := rfl
@[simp] theorem takeAction_timeout (s : State) : takeAction .timeout s = exec .timeout s := rfl
@[simp] theorem takeAction_reset (s : State) : takeAction .reset s = exec .reset s := rfl
@[simp] theorem takeAction_bufRead (a : Half) (s : State) :
    takeAction (.bufRead a) s = exec (.bufRead a) s := rfl
@[simp] theorem takeAction_payWrite (a : Half) (v : Byte) (s : State) :
    takeAction (.payWrite a v) s = execPayWrite a v s := rfl

end Sys2Proof.Machine
end

