-- ==== Sys2Proof/Laws/Cases.lean ====
section
/-! SUPPORT. Everything the row chosen by a received byte, or by the emission phase, can answer. Proofs about
every step split on these cases and never unfold a meaning. -/

namespace Sys2Proof.Machine

/-- The next parser registers while a header field is assembled. -/
inductive HeaderStep (r : RxRegs) (b : Byte) : RxRegs → Prop where
  | chkFirst : r.state = RxState.rck → r.idx = 0#1 →
      HeaderStep r b { r with chk := shiftIn r.chk b, idx := 1#1 }
  | chkSecond : r.state = RxState.rck → r.idx = 1#1 →
      HeaderStep r b { r with chk := shiftIn r.chk b, idx := 0#1, state := RxState.rtid }
  | topicFirst : r.state = RxState.rtid → r.idx = 0#1 →
      HeaderStep r b { r with topic := shiftIn r.topic b, idx := 1#1 }
  | topicSecond : r.state = RxState.rtid → r.idx = 1#1 →
      HeaderStep r b { r with topic := shiftIn r.topic b, idx := 0#1, state := RxState.rlen }
  | lenFirst : r.state = RxState.rlen → r.idx = 0#1 →
      HeaderStep r b { r with len := shiftIn r.len b, idx := 1#1 }

/-- What one received byte does to a ready RX half: the next state of the row that the parser state and
the byte select. -/
inductive RxEffect (s : State) (b : Byte) : State → Prop where
  /-- R80. -/
  | start : s.rx.state = RxState.wfh → b = HEADER → RxEffect s b (startFrame s)
  /-- R81. -/
  | boundary : s.rx.state = RxState.wfh → b ≠ HEADER → s.params.endMarker = true → b = ENDMARK →
      RxEffect s b (signalBoundary ENDMARK s)
  /-- R82. -/
  | outOfFrame : s.rx.state = RxState.wfh → b ≠ HEADER →
      RxEffect s b (raiseError .outOfFrameByte 0#16 0#16 0#16 b s)
  /-- R83, R84, and the first byte of R85. -/
  | header (r : RxRegs) : HeaderStep s.rx b r → RxEffect s b (s.setRx r)
  /-- R85, a length that is too long. -/
  | tooLong : s.rx.state = RxState.rlen → s.rx.idx = 1#1 →
      s.params.maxPacketSize < shiftIn s.rx.len b →
      RxEffect s b ((s.setEvt ⟨true, EvtType.error, 1#3, s.rx.topic, shiftIn s.rx.len b, 0#16, b⟩).setRx
        RxRegs.reset)
  /-- R85, a zero-length frame. -/
  | empty : s.rx.state = RxState.rlen → s.rx.idx = 1#1 → shiftIn s.rx.len b = 0#16 →
      RxEffect s b ((s.setEvt (frameEvent [] s.rx.chk s.rx.topic 0#16 b)).setRx RxRegs.reset)
  /-- R85, a length that is accepted. -/
  | payload : s.rx.state = RxState.rlen → s.rx.idx = 1#1 → shiftIn s.rx.len b ≠ 0#16 →
      shiftIn s.rx.len b ≤ s.params.maxPacketSize →
      RxEffect s b (s.setRx { s.rx with len := shiftIn s.rx.len b, idx := 0#1, state := RxState.rdata })
  /-- R86. -/
  | escape : s.rx.state = RxState.rdata → b = ESCAPE →
      RxEffect s b (s.setRx { s.rx with state := RxState.resc })
  /-- R87. -/
  | resync : s.rx.state = RxState.rdata → b = HEADER →
      RxEffect s b (startFrame (raiseError .unexpectedHeader s.rx.topic s.rx.len s.rx.count HEADER s))
  /-- R89, a byte the strict policy rejects. -/
  | strict : s.rx.state = RxState.resc → s.params.strictEscape = true →
      isReserved s.params.endMarker b = false →
      RxEffect s b (enterWfh (raiseError .unknownError s.rx.topic s.rx.len s.rx.count b s))
  /-- R91, the guard. -/
  | guard : payloadState s.rx.state = true → s.rx.len ≤ s.rx.count →
      RxEffect s b ((s.setEvt ⟨true, EvtType.error, 1#3, s.rx.topic, s.rx.len, s.rx.count, b⟩).setRx
        RxRegs.reset)
  /-- R91, a byte stored with more to come. -/
  | store : payloadState s.rx.state = true → (s.rx.state = RxState.rdata → b ≠ ESCAPE) →
      s.rx.count < s.rx.len → s.rx.count + 1#16 ≠ s.rx.len → RxEffect s b (stored s b)
  /-- R91 and R92, the last byte. -/
  | finish : payloadState s.rx.state = true → s.rx.count < s.rx.len →
      s.rx.count + 1#16 = s.rx.len →
      RxEffect s b (((stored s b).setEvt (completionEvt (stored s b) b)).setRx RxRegs.reset)
  /-- R90. -/
  | reserved : RxState.resc < s.rx.state → RxEffect s b (recordRxFault .reservedParserState s)

theorem store_effect {s : State} {b : Byte} (hs : payloadState s.rx.state = true)
    (hb : s.rx.state = RxState.rdata → b ≠ ESCAPE) : RxEffect s b (Machine.store b s) := by
  rw [store_eq]
  split_ifs with h1 h2
  · exact .guard hs h1
  · exact .finish hs (by bv_omega) h2
  · exact .store hs hb (by bv_omega) h2

theorem rlen_effect {s : State} {b : Byte} (hst : s.rx.state = RxState.rlen) :
    RxEffect s b (lengthByte (shiftIn s.rx.len b) b s) := by
  unfold lengthByte
  split_ifs with hi h1 h2
  · exact .header _ (HeaderStep.lenFirst hst hi)
  · exact .tooLong hst (by bv_omega) h1
  · rw [complete_eq]
    have h3 := RxEffect.empty (b := b) hst (by bv_omega) h2
    have e : completionEvt (s.setRx { s.rx with len := shiftIn s.rx.len b, idx := 0#1 }) b =
        frameEvent [] s.rx.chk s.rx.topic 0#16 b := by simp [completionEvt, rxBytes, h2]
    rw [e]
    exact h3
  · exact .payload hst (by bv_omega) h2 (by bv_omega)

/-- The row a received byte selects, on a ready RX half. -/
theorem rxRow_next {s t : State} {b : Byte} (hp : s.evt.pending = false)
    (h : exec (decodeRx s.params (rxWord s.rx.state b)) s = .next t) :
    s.rxFault = none ∧ RxEffect s b t := by
  rw [decodeRx_rxWord] at h
  have ready : ∀ {r : Result}, rxByteStep s r = .next t → s.rxFault = none ∧ r = .next t := by
    intro r hr
    obtain ⟨hp', -⟩ | ⟨-, hr⟩ := rxByteStep_next hr
    · rw [hp] at hp'
      cases hp'
    · exact hr
  split_ifs at h with h0 h1 h2 h3 h4 h5 h6 h7 h8 h9
  · obtain ⟨hf, h⟩ := ready h
    cases h
    exact ⟨hf, .start h0 h1⟩
  · obtain ⟨hf, h⟩ := ready h
    cases h
    simp only [Bool.and_eq_true, beq_iff_eq] at h2
    exact ⟨hf, .boundary h0 h1 h2.1 h2.2⟩
  · obtain ⟨hf, h⟩ := ready h
    cases h
    exact ⟨hf, .outOfFrame h0 h1⟩
  · obtain ⟨hf, h⟩ := ready h
    refine ⟨hf, ?_⟩
    by_cases hi : s.rx.idx = 0#1
    · simp only [hi, if_true] at h
      cases h
      exact .header _ (HeaderStep.chkFirst h3 hi)
    · simp only [hi, if_false] at h
      cases h
      exact .header _ (HeaderStep.chkSecond h3 (by bv_omega))
  · obtain ⟨hf, h⟩ := ready h
    refine ⟨hf, ?_⟩
    by_cases hi : s.rx.idx = 0#1
    · simp only [hi, if_true] at h
      cases h
      exact .header _ (HeaderStep.topicFirst h4 hi)
    · simp only [hi, if_false] at h
      cases h
      exact .header _ (HeaderStep.topicSecond h4 (by bv_omega))
  · obtain ⟨hf, h⟩ := ready h
    cases h
    exact ⟨hf, rlen_effect h5⟩
  · obtain ⟨hf, h⟩ := ready h
    cases h
    exact ⟨hf, .escape h6 h7⟩
  · obtain ⟨hf, h⟩ := ready h
    cases h
    exact ⟨hf, .resync h6 h8⟩
  · obtain ⟨hf, h⟩ := ready h
    cases h
    exact ⟨hf, store_effect (by rw [h6]; decide) (fun _ => h7)⟩
  · obtain ⟨hf, h⟩ := ready h
    cases h
    refine ⟨hf, ?_⟩
    split_ifs with h10
    · simp only [Bool.and_eq_true, Bool.not_eq_true'] at h10
      exact .strict h9 h10.1 h10.2
    · exact store_effect (by rw [h9]; decide) (fun hr => absurd (hr.symm.trans h9) (by decide))
  · obtain ⟨hf, h⟩ := ready h
    cases h
    refine ⟨hf, .reserved ?_⟩
    have hall : ∀ st : BitVec 3, st = RxState.wfh ∨ st = RxState.rck ∨ st = RxState.rtid ∨
        st = RxState.rlen ∨ st = RxState.rdata ∨ st = RxState.resc ∨ RxState.resc < st := by decide
    rcases hall s.rx.state with e | e | e | e | e | e | e
    exacts [absurd e h0, absurd e h3, absurd e h4, absurd e h5, absurd e h6, absurd e h9, e]

/-- What one emission does: the byte and the registers after it. -/
inductive TxEffect (s : State) : State → Prop where
  /-- R104 to R109. -/
  | header (ph : BitVec 4) (b : Byte) : headerPhase s.tx.phase = true → s.tx.phase ≠ TxPhase.lenLo →
      ph = s.tx.phase + 1#4 → (txHeader s)[s.tx.phase.toNat - 1]? = some b →
      TxEffect s (setPhase ph (emit b s))
  /-- R110. -/
  | lastHeader : s.tx.phase = TxPhase.lenLo →
      TxEffect s (setPhase (if s.tx.len = 0#16 then TxPhase.idle else TxPhase.data)
        (emit (loByte s.tx.len) s))
  /-- R111, a reserved byte. -/
  | escape (v : Byte) : s.tx.phase = TxPhase.data → v = payByte s s.tx.idx.toNat →
      isReserved s.params.endMarker v = true →
      TxEffect s ((emit ESCAPE s).setTx { s.tx with hold := v, phase := TxPhase.dataEsc })
  /-- R111, an ordinary byte. -/
  | plain (v : Byte) : s.tx.phase = TxPhase.data → v = payByte s s.tx.idx.toNat →
      isReserved s.params.endMarker v = false → TxEffect s (nextPayloadByte (emit v s))
  /-- R112. -/
  | escaped : s.tx.phase = TxPhase.dataEsc → TxEffect s (nextPayloadByte (emit s.tx.hold s))
  /-- R113. -/
  | marker : s.tx.phase = TxPhase.endmk → TxEffect s (setPhase TxPhase.idle (emit ENDMARK s))
  /-- R114. -/
  | reserved : TxPhase.endmk < s.tx.phase → TxEffect s (recordTxFault .reservedTxPhase s)

/-- The row the phase selects. -/
theorem txRow_next {s t : State} {i : Instr} (hp : s.tx.phase ≠ TxPhase.idle)
    (hi : decodeTxEmit s.tx.phase = .ok i) (h : exec i s = .next t) :
    s.txFault = none ∧ TxEffect s t := by
  have valid : ∀ {r : Result}, txEmitStep s r = .next t → s.txFault = none ∧ r = .next t := by
    intro r hr
    obtain ⟨hp', -⟩ | ⟨-, hr⟩ := txEmitStep_next hr
    · exact absurd hp' hp
    · exact hr
  have cases16 : ∀ e : BitVec 4, e = 0#4 ∨ e = 1#4 ∨ e = 2#4 ∨ e = 3#4 ∨ e = 4#4 ∨ e = 5#4 ∨
      e = 6#4 ∨ e = 7#4 ∨ e = 8#4 ∨ e = 9#4 ∨ e = 10#4 ∨ e = 11#4 ∨ 12#4 ≤ e := by decide
  rcases cases16 s.tx.phase with e | e | e | e | e | e | e | e | e | e | e | e | e
  · exact absurd e hp
  · rw [e] at hi
    cases hi
    obtain ⟨hf, h⟩ := valid h
    cases h
    exact ⟨hf, .header _ _ (by rw [e]; decide) (by rw [e]; decide) (by rw [e]; rfl) (by rw [e]; rfl)⟩
  · rw [e] at hi
    cases hi
    obtain ⟨hf, h⟩ := valid h
    cases h
    exact ⟨hf, .header _ _ (by rw [e]; decide) (by rw [e]; decide) (by rw [e]; rfl) (by rw [e]; rfl)⟩
  · rw [e] at hi
    cases hi
    obtain ⟨hf, h⟩ := valid h
    cases h
    exact ⟨hf, .header _ _ (by rw [e]; decide) (by rw [e]; decide) (by rw [e]; rfl) (by rw [e]; rfl)⟩
  · rw [e] at hi
    cases hi
    obtain ⟨hf, h⟩ := valid h
    cases h
    exact ⟨hf, .header _ _ (by rw [e]; decide) (by rw [e]; decide) (by rw [e]; rfl) (by rw [e]; rfl)⟩
  · rw [e] at hi
    cases hi
    obtain ⟨hf, h⟩ := valid h
    cases h
    exact ⟨hf, .header _ _ (by rw [e]; decide) (by rw [e]; decide) (by rw [e]; rfl) (by rw [e]; rfl)⟩
  · rw [e] at hi
    cases hi
    obtain ⟨hf, h⟩ := valid h
    cases h
    exact ⟨hf, .header _ _ (by rw [e]; decide) (by rw [e]; decide) (by rw [e]; rfl) (by rw [e]; rfl)⟩
  · rw [e] at hi
    cases hi
    obtain ⟨hf, h⟩ := valid h
    cases h
    exact ⟨hf, .lastHeader e⟩
  · rw [e] at hi
    cases hi
    obtain ⟨hf, h⟩ := valid h
    cases h
    refine ⟨hf, ?_⟩
    cases hv : isReserved s.params.endMarker (payByte s s.tx.idx.toNat) with
    | true => simpa [hv] using TxEffect.escape _ e rfl hv
    | false => simpa [hv] using TxEffect.plain _ e rfl hv
  · rw [e] at hi
    cases hi
    obtain ⟨hf, h⟩ := valid h
    cases h
    exact ⟨hf, .escaped e⟩
  · rw [e] at hi
    cases hi
    obtain ⟨hf, h⟩ := valid h
    cases h
    exact ⟨hf, .marker e⟩
  · rw [e] at hi
    cases hi
    obtain ⟨hf, h⟩ := valid h
    cases h
    exact ⟨hf, .reserved (by rw [e]; decide)⟩
  · have hc : ∀ p : BitVec 4, 12#4 ≤ p → decodeTxEmit p = .ok (.txRsvdC (p.extractLsb' 0 2)) ∧
        TxPhase.endmk < p := by
      intro p hp
      have : p = 12#4 ∨ p = 13#4 ∨ p = 14#4 ∨ p = 15#4 := by bv_omega
      rcases this with rfl | rfl | rfl | rfl <;> exact ⟨rfl, by decide⟩
    obtain ⟨h1, h2⟩ := hc _ e
    rw [h1] at hi
    cases hi
    obtain ⟨hf, h⟩ := valid h
    cases h
    exact ⟨hf, .reserved h2⟩

end Sys2Proof.Machine
end

