-- ==== Sys2Proof/Laws/PerInstr.lean ====
section
/-! SUPPORT. Statements made per instruction. RowMatch: an instruction's select word lies in its row of the
opcode table, `(word & mask) = match`. -/

namespace Sys2Proof.Laws.RowMatch

/-- The encoded word satisfies the mask and match of the instruction's row. -/
def Statement (i : Instr) : Prop :=
  (encode i).number &&& i.tableRow.mask = i.tableRow.pattern

/-- The number of an rx word. -/
theorem rxWord_toNat (st : BitVec 3) (b : Byte) : (rxWord st b).toNat = st.toNat * 256 + b.toNat := by
  have h : (rxWord st b).toNat = st.toNat <<< 8 ||| b.toNat := BitVec.toNat_append st b
  rw [h, ← Nat.shiftLeft_add_eq_or_of_lt b.isLt, Nat.shiftLeft_eq]

/-- The state bits of an rx word. -/
theorem rxWord_mask (st : BitVec 3) (b : Byte) :
    (rxWord st b).toNat &&& 0x700 = st.toNat * 256 := by
  rw [rxWord_toNat]
  revert st b
  decide +kernel

/-- The number of a command word. -/
theorem txCmdWord_mask (o : BitVec 1) (t l : Half) :
    (txCmdWord o t l).toNat &&& 0x100000000 = o.toNat * 0x100000000 := by
  have h : (txCmdWord o t l).toNat = o.toNat <<< 32 ||| (t ++ l).toNat := BitVec.toNat_append o (t ++ l)
  have hl : (t ++ l).toNat < 2 ^ 32 := (t ++ l).isLt
  rw [h, ← Nat.shiftLeft_add_eq_or_of_lt hl, Nat.shiftLeft_eq]
  have e : (0x100000000 : Nat) = 2 ^ 32 := rfl
  have ho : o.toNat < 2 := o.isLt
  rw [e, Nat.and_two_pow, Nat.testBit_eq_decide_div_mod_eq]
  have : (o.toNat * 2 ^ 32 + (t ++ l).toNat) / 2 ^ 32 % 2 = o.toNat := by omega
  rw [this]
  obtain h0 | h1 : o.toNat = 0 ∨ o.toNat = 1 := by omega
  · simp [h0]
  · simp [h1]

theorem rxWfhHdr : Statement .rxWfhHdr := rfl
theorem rxWfhEnd : Statement .rxWfhEnd := rfl
theorem rxWfhOof (b : Byte) : Statement (.rxWfhOof b) := rxWord_mask _ b
theorem rxRck (b : Byte) : Statement (.rxRck b) := rxWord_mask _ b
theorem rxRtid (b : Byte) : Statement (.rxRtid b) := rxWord_mask _ b
theorem rxRlen (b : Byte) : Statement (.rxRlen b) := rxWord_mask _ b
theorem rxRdataEsc : Statement .rxRdataEsc := rfl
theorem rxRdataHdr : Statement .rxRdataHdr := rfl
theorem rxRdataByte (b : Byte) : Statement (.rxRdataByte b) := rxWord_mask _ b
theorem rxResc (b : Byte) : Statement (.rxResc b) := rxWord_mask _ b
theorem rxRsvd (lo : BitVec 1) (b : Byte) : Statement (.rxRsvd lo b) := by
  unfold Statement
  revert lo b
  decide +kernel
theorem sendFrame (topic len : Half) : Statement (.sendFrame topic len) := txCmdWord_mask 0#1 topic len
theorem sendEnd : Statement .sendEnd := txCmdWord_mask 1#1 0#16 0#16
theorem txHdr : Statement .txHdr := rfl
theorem txChkHi : Statement .txChkHi := rfl
theorem txChkLo : Statement .txChkLo := rfl
theorem txTidHi : Statement .txTidHi := rfl
theorem txTidLo : Statement .txTidLo := rfl
theorem txLenHi : Statement .txLenHi := rfl
theorem txLenLo : Statement .txLenLo := rfl
theorem txData : Statement .txData := rfl
theorem txDataEsc : Statement .txDataEsc := rfl
theorem txEndmk : Statement .txEndmk := rfl
theorem txRsvdB : Statement .txRsvdB := rfl
theorem txRsvdC (lo : BitVec 2) : Statement (.txRsvdC lo) := by
  unfold Statement
  revert lo
  decide
theorem evtAck : Statement .evtAck := rfl
theorem timeout : Statement .timeout := rfl
theorem reset : Statement .reset := rfl
theorem bufRead (a : Half) : Statement (.bufRead a) :=
  show (0b11#2).toNat &&& 0b11 = 0b11 by decide

end Sys2Proof.Laws.RowMatch
end

