-- ==== Sys2Proof/Laws/Run.lean ====
section
/-! SUPPORT. Runs of several steps, and 16-bit fields assembled from their two bytes. -/

namespace Sys2Proof.Machine

/-- A run of no steps. -/
theorem run_zero (s : State) : Sys2Proof.core.run 0 s = .next s := rfl

/-- One step, then the rest. -/
theorem core_run_succ (M : Host.Core) (k : Nat) (s : M.State) :
    M.run (k + 1) s =
      match M.step s with
      | .next s' => M.run k s'
      | .fault r => .fault r
      | .refused r => .refused r := rfl

/-- A run whose first step answers a next state. -/
theorem run_succ {s t : State} (h : step s = .next t) (k : Nat) :
    Sys2Proof.core.run (k + 1) s = Sys2Proof.core.run k t := by
  have h' : Sys2Proof.core.step s = .next t := h
  rw [core_run_succ Sys2Proof.core k s, h']

/-- A run whose first step stops does not end in a next state. -/
theorem run_succ_next {s t : State} {k : Nat} (h : Sys2Proof.core.run (k + 1) s = .next t) :
    ∃ u, step s = .next u ∧ Sys2Proof.core.run k u = .next t := by
  rw [core_run_succ Sys2Proof.core k s] at h
  cases hs : Sys2Proof.core.step s with
  | next u =>
    rw [hs] at h
    exact ⟨u, hs, h⟩
  | fault f =>
    rw [hs] at h
    cases h
  | refused f =>
    rw [hs] at h
    cases h

/-- A run in two parts. -/
theorem run_add {s t : State} {j : Nat} (h : Sys2Proof.core.run j s = .next t) (k : Nat) :
    Sys2Proof.core.run (j + k) s = Sys2Proof.core.run k t := by
  induction j generalizing s with
  | zero =>
    rw [run_zero] at h
    cases h
    rw [Nat.zero_add]
  | succ j ih =>
    obtain ⟨u, hu, h⟩ := run_succ_next h
    rw [Nat.succ_add, run_succ hu]
    exact ih h

/-- Assembling a field from 0 by its high byte and then its low byte gives the field (30_encoding.md
R48, 20_memory.md R36). -/
theorem shiftIn_field (h : Half) : shiftIn (shiftIn 0#16 (hiByte h)) (loByte h) = h := by
  ext i hi
  simp only [shiftIn, hiByte, loByte]
  simp only [BitVec.getElem_or, BitVec.getElem_shiftLeft, BitVec.getElem_setWidth,
    BitVec.getLsbD_extractLsb']
  by_cases h8 : i < 8
  · simp [h8, BitVec.getLsbD_eq_getElem hi]
  · have e : 8 + (i - 8) = i := by omega
    have l : i - 8 < 8 := by omega
    simp [h8, e, l, BitVec.getLsbD_eq_getElem hi]

end Sys2Proof.Machine
end

