-- ==== Sys2Proof/Tests/Slice0.lean ====
section
/-! SUPPORT. The model's own tests: expected values come from the spec's encoding tables (30_encoding.md),
rule examples and test vectors (95_test_vectors.md), named beside each. Then one witness for the hypotheses of
every statement that has some. -/

namespace Sys2Proof.Tests

open Sys2Proof Sys2Proof.Machine

/-! ## Helpers -/

/-- Whether the outcome is a next state that passes `f`. -/
def nextIs (r : Result) (f : State → Bool) : Bool :=
  match r with
  | .next t => f t
  | .fault _ => false
  | .refused _ => false

/-- Whether the outcome is the fault `f`. -/
def faultIs (r : Result) (f : Fault) : Bool :=
  match r with
  | .next _ => false
  | .fault g => f == g
  | .refused _ => false

/-- The reset state with these parser registers. -/
def rxState (st : BitVec 3) (idx : BitVec 1) (chk topic len count : Half) : State :=
  State.reset.setRx ⟨st, idx, chk, topic, len, count⟩

/-- The payload of V-TX-03a in PAY, and these serializer registers. -/
def txState (ph : BitVec 4) (idx : Half) (hold : Byte) : State :=
  (State.reset.setTx ⟨ph, 0x0102#16, 0x0004#16, 0x26C7#16, idx, hold⟩).setPay
    [(0, 0x99#8), (1, 0x00#8), (2, 0x98#8), (3, 0x97#8)]

/-- V-RX-06's PACKET pending, with its bytes in the buffer. -/
def eventState : State :=
  (State.reset.setEvt ⟨true, 0#2, 0#3, 0x0003#16, 0x0004#16, 0x0004#16, 0x04#8⟩).setRxBuf
    [(0, 0x01#8), (1, 0x02#8), (2, 0x03#8), (3, 0x04#8)]

/-- Change the parameters. -/
def withParams (p : Params) (s : State) : State := { s with params := p }

def endOff : Params := { Params.default with endMarker := false }
def strict : Params := { Params.default with strictEscape := true }
def timed : Params := { Params.default with timeoutPresent := true }
def tiny (n : Half) : Params := { Params.default with maxPacketSize := n }

/-- The byte the last TxEmit put out. -/
def emitted (t : State) : Option Byte := t.obs.txBytes.getLast?

/-- Bytes waiting on the RX port, and RxByte chosen. -/
def offered (bs : List Byte) (s : State) : State :=
  schedule .rxByte (s.setEnv { s.env with rxIn := bs })

/-- Commands waiting on the command port, and TxCmd chosen. -/
def commanded (cs : List (BitVec 33)) (s : State) : State :=
  schedule .txCmd (s.setEnv { s.env with cmdIn := cs })

/-! ## WellFormed refuses each ill-formed term (R51's conditions) -/

theorem test_wf_refuses_end_without_marker : Instr.wellFormed endOff .rxWfhEnd = false := by decide
theorem test_wf_refuses_oof_header :
    Instr.wellFormed Params.default (.rxWfhOof 0x99#8) = false := by decide
theorem test_wf_refuses_oof_end :
    Instr.wellFormed Params.default (.rxWfhOof 0x97#8) = false := by decide
theorem test_wf_takes_oof_end_when_off : Instr.wellFormed endOff (.rxWfhOof 0x97#8) = true := by decide
theorem test_wf_refuses_data_escape :
    Instr.wellFormed Params.default (.rxRdataByte 0x98#8) = false := by decide
theorem test_wf_refuses_data_header :
    Instr.wellFormed Params.default (.rxRdataByte 0x99#8) = false := by decide
theorem test_wf_takes_data_end : Instr.wellFormed Params.default (.rxRdataByte 0x97#8) = true := by decide

/-! ## Decoding, each row from a word of R51, R52, R54 or R55 -/

theorem test_decode_wfh :
    decode Params.default (.rx 0x099#11) = .ok .rxWfhHdr ∧
    decode Params.default (.rx 0x097#11) = .ok .rxWfhEnd ∧
    decode endOff (.rx 0x097#11) = .ok (.rxWfhOof 0x97#8) ∧
    decode Params.default (.rx 0x098#11) = .ok (.rxWfhOof 0x98#8) := by decide

theorem test_decode_header_fields :
    decode Params.default (.rx 0b00110011001#11) = .ok (.rxRck 0x99#8) ∧
    decode Params.default (.rx 0b01000000001#11) = .ok (.rxRtid 0x01#8) ∧
    decode Params.default (.rx 0b01100001000#11) = .ok (.rxRlen 0x08#8) := by decide

theorem test_decode_payload :
    decode Params.default (.rx 0b10010011000#11) = .ok .rxRdataEsc ∧
    decode Params.default (.rx 0b10010011001#11) = .ok .rxRdataHdr ∧
    decode Params.default (.rx 0b10010010111#11) = .ok (.rxRdataByte 0x97#8) ∧
    decode Params.default (.rx 0b10110011001#11) = .ok (.rxResc 0x99#8) ∧
    decode Params.default (.rx 0b11000010010#11) = .ok (.rxRsvd 0#1 0x12#8) ∧
    decode Params.default (.rx 0b11100010010#11) = .ok (.rxRsvd 1#1 0x12#8) := by decide

theorem test_decode_commands :
    decode Params.default (.txCmd 0x001020004#33) = .ok (.sendFrame 0x0102#16 0x0004#16) ∧
    decode Params.default (.txCmd 0x00005012C#33) = .ok (.sendFrame 0x0005#16 0x012C#16) ∧
    decode Params.default (.txCmd 0x100000000#33) = .ok .sendEnd ∧
    decode Params.default (.txCmd 0x1ABCD1234#33) = .ok .sendEnd := by decide

theorem test_decode_emit_header :
    decode Params.default (.txEmit 0b0001#4) = .ok .txHdr ∧
    decode Params.default (.txEmit 0b0010#4) = .ok .txChkHi ∧
    decode Params.default (.txEmit 0b0011#4) = .ok .txChkLo ∧
    decode Params.default (.txEmit 0b0100#4) = .ok .txTidHi ∧
    decode Params.default (.txEmit 0b0101#4) = .ok .txTidLo ∧
    decode Params.default (.txEmit 0b0110#4) = .ok .txLenHi ∧
    decode Params.default (.txEmit 0b0111#4) = .ok .txLenLo := by decide

theorem test_decode_emit_rest :
    decode Params.default (.txEmit 0b1000#4) = .ok .txData ∧
    decode Params.default (.txEmit 0b1001#4) = .ok .txDataEsc ∧
    decode Params.default (.txEmit 0b1010#4) = .ok .txEndmk ∧
    decode Params.default (.txEmit 0b1011#4) = .ok .txRsvdB ∧
    decode Params.default (.txEmit 0b1101#4) = .ok (.txRsvdC 1#2) ∧
    decode Params.default (.txEmit 0b0000#4) = .error .idleHasNoRow := by decide

theorem test_decode_ctl :
    decode Params.default (.ctl 0b00#2 0#16) = .ok .evtAck ∧
    decode Params.default (.ctl 0b01#2 0#16) = .ok .timeout ∧
    decode Params.default (.ctl 0b10#2 0xFFFF#16) = .ok .reset ∧
    decode Params.default (.ctl 0b11#2 0x012C#16) = .ok (.bufRead 0x012C#16) := by decide

/-! The same through the opcode table's numbers, in whole bytes (log 12). -/

theorem test_table_words :
    decodeTableWord 16 0x499 = some .rxRdataHdr ∧ decodeTableWord 40 0x001020004 =
      some (.sendFrame 0x0102#16 0x0004#16) ∧ decodeTableWord 8 0xA = some .txEndmk ∧
    decodeTableWord 8 0 = some .evtAck ∧ decodeTableWord 2 1 = some .timeout ∧
    decodeTableWord 24 0x012C03 = some (.bufRead 0x012C#16) ∧ decodeTableWord 4 0 = none := by decide

theorem test_fetch_word_runs :
    nextIs (step (State.reset.withFetchWord 16 0x499)) (fun t => t.evt.err == 2#3) = true ∧
    nextIs (step (State.reset.withFetchWord 40 0x000090000)) (fun t => t.tx.chk == 0xFFFF#16) = true ∧
    nextIs (step (State.reset.withFetchWord 8 0xA)) (fun t => emitted t == some 0x97#8) = true := by
  decide

/-! ## The RX rows -/

/-- R80's example. -/
theorem test_rxWfhHdr : nextIs (exec .rxWfhHdr (rxState 0#3 1#1 5#16 5#16 5#16 5#16))
    (fun t => t.rx == ⟨1#3, 0#1, 0#16, 0#16, 0#16, 0#16⟩ && !t.evt.pending) = true := by decide

/-- V-RX-11a. -/
theorem test_rxWfhEnd : nextIs (exec .rxWfhEnd State.reset)
    (fun t => t.evt == ⟨true, 2#2, 0#3, 0#16, 0#16, 0#16, 0x97#8⟩ && t.rx.state == 0#3) = true := by
  decide

/-- V-RX-10. -/
theorem test_rxWfhOof : nextIs (exec (.rxWfhOof 0x98#8) State.reset)
    (fun t => t.evt == ⟨true, 1#2, 5#3, 0#16, 0#16, 0#16, 0x98#8⟩ && t.rx.state == 0#3) = true := by
  decide

/-- R83's example, second byte. -/
theorem test_rxRck : nextIs (exec (.rxRck 0x6F#8) (rxState 1#3 1#1 0x0039#16 0#16 0#16 0#16))
    (fun t => t.rx == ⟨2#3, 0#1, 0x396F#16, 0#16, 0#16, 0#16⟩) = true := by decide

/-- V-RX-13: a header value in the topic field is a field byte. -/
theorem test_rxRtid : nextIs (exec (.rxRtid 0x99#8) (rxState 2#3 1#1 0x9899#16 0x0000#16 0#16 0#16))
    (fun t => t.rx == ⟨3#3, 0#1, 0x9899#16, 0x0099#16, 0#16, 0#16⟩) = true := by decide

/-- V-RX-08. -/
theorem test_rxRlen_too_long :
    nextIs (exec (.rxRlen 0x01#8) (rxState 3#3 1#1 0#16 0x0005#16 0x0001#16 0#16))
    (fun t => t.evt == ⟨true, 1#2, 1#3, 0x0005#16, 0x0101#16, 0#16, 0x01#8⟩ &&
      t.rx == RxRegs.reset) = true := by decide

/-- V-RX-04. -/
theorem test_rxRlen_empty :
    nextIs (exec (.rxRlen 0x00#8) (rxState 3#3 1#1 0xFFFF#16 0x0009#16 0#16 0#16))
    (fun t => t.evt == ⟨true, 0#2, 0#3, 0x0009#16, 0#16, 0#16, 0x00#8⟩ &&
      t.rx == RxRegs.reset) = true := by decide

/-- R86's example. -/
theorem test_rxRdataEsc : nextIs (exec .rxRdataEsc (rxState 4#3 0#1 1#16 2#16 3#16 0#16))
    (fun t => t.rx == ⟨5#3, 0#1, 1#16, 2#16, 3#16, 0#16⟩) = true := by decide

/-- V-RX-14. -/
theorem test_rxRdataHdr :
    nextIs (exec .rxRdataHdr (rxState 4#3 0#1 0x1234#16 0x0007#16 0x0003#16 0x0001#16))
    (fun t => t.evt == ⟨true, 1#2, 2#3, 0x0007#16, 0x0003#16, 0x0001#16, 0x99#8⟩ &&
      t.rx == ⟨1#3, 0#1, 0#16, 0#16, 0#16, 0#16⟩) = true := by decide

/-- V-RX-15: the payload byte 97 completes a frame of checksum 9596. -/
theorem test_rxRdataByte_completes :
    nextIs (exec (.rxRdataByte 0x97#8) (rxState 4#3 0#1 0x9596#16 0x0001#16 0x0001#16 0#16))
    (fun t => t.evt == ⟨true, 0#2, 0#3, 0x0001#16, 0x0001#16, 0x0001#16, 0x97#8⟩ &&
      t.rxBuf == [(0, 0x97#8)] && t.rx == RxRegs.reset) = true := by decide

/-- R91's guard comes before the write. -/
theorem test_rxRdataByte_guard :
    nextIs (exec (.rxRdataByte 0x41#8) (rxState 4#3 0#1 0#16 0x0001#16 0x0002#16 0x0002#16))
    (fun t => t.evt == ⟨true, 1#2, 1#3, 0x0001#16, 0x0002#16, 0x0002#16, 0x41#8⟩ &&
      t.rxBuf == []) = true := by decide

/-- V-RX-20. -/
theorem test_rxResc_strict : nextIs (exec (.rxResc 0x97#8)
      (withParams { strict with endMarker := false }
        (rxState 5#3 0#1 0x9596#16 0x0001#16 0x0001#16 0#16)))
    (fun t => t.evt == ⟨true, 1#2, 4#3, 0x0001#16, 0x0001#16, 0#16, 0x97#8⟩ &&
      t.rxBuf == []) = true := by decide

/-- V-RX-17b: stored literally, one more to come. -/
theorem test_rxResc_permissive :
    nextIs (exec (.rxResc 0x41#8) (rxState 5#3 0#1 0x1234#16 0x0003#16 0x0002#16 0#16))
    (fun t => t.rx == ⟨4#3, 0#1, 0x1234#16, 0x0003#16, 0x0002#16, 0x0001#16⟩ &&
      t.rxBuf == [(0, 0x41#8)] && !t.evt.pending) = true := by decide

/-- V-RX-28. -/
theorem test_rxRsvd : nextIs (exec (.rxRsvd 0#1 0x12#8) (rxState 6#3 0#1 0#16 0#16 0#16 0#16))
    (fun t => t.rxFault == some .reservedParserState) = true := by decide

/-! ## The TX rows -/

/-- V-TX-03a's command. -/
theorem test_sendFrame : nextIs (exec (.sendFrame 0x0102#16 0x0004#16) (txState 0#4 9#16 9#8))
    (fun t => t.tx == ⟨1#4, 0x0102#16, 0x0004#16, 0x26C7#16, 0#16, 0#8⟩) = true := by decide

/-- V-TX-02's command: the empty payload. -/
theorem test_sendFrame_empty : nextIs (exec (.sendFrame 0x0009#16 0#16) State.reset)
    (fun t => t.tx == ⟨1#4, 0x0009#16, 0#16, 0xFFFF#16, 0#16, 0#8⟩) = true := by decide

/-- V-TX-05a and V-TX-05b. -/
theorem test_sendEnd :
    nextIs (exec .sendEnd State.reset) (fun t => t.tx.phase == 10#4) = true ∧
    nextIs (exec .sendEnd (withParams endOff State.reset)) (fun t => t.tx.phase == 0#4) = true := by
  decide

/-! The header of V-TX-03a: 99 26 C7 01 02 00 04. -/

theorem test_txHdr : nextIs (exec .txHdr (txState 1#4 0#16 0#8))
    (fun t => emitted t == some 0x99#8 && t.tx.phase == 2#4) = true := by decide
theorem test_txChkHi : nextIs (exec .txChkHi (txState 2#4 0#16 0#8))
    (fun t => emitted t == some 0x26#8 && t.tx.phase == 3#4) = true := by decide
theorem test_txChkLo : nextIs (exec .txChkLo (txState 3#4 0#16 0#8))
    (fun t => emitted t == some 0xC7#8 && t.tx.phase == 4#4) = true := by decide
theorem test_txTidHi : nextIs (exec .txTidHi (txState 4#4 0#16 0#8))
    (fun t => emitted t == some 0x01#8 && t.tx.phase == 5#4) = true := by decide
theorem test_txTidLo : nextIs (exec .txTidLo (txState 5#4 0#16 0#8))
    (fun t => emitted t == some 0x02#8 && t.tx.phase == 6#4) = true := by decide
theorem test_txLenHi : nextIs (exec .txLenHi (txState 6#4 0#16 0#8))
    (fun t => emitted t == some 0x00#8 && t.tx.phase == 7#4) = true := by decide
theorem test_txLenLo : nextIs (exec .txLenLo (txState 7#4 0#16 0#8))
    (fun t => emitted t == some 0x04#8 && t.tx.phase == 8#4) = true := by decide

/-- V-TX-02: the last header byte of an empty frame ends it. -/
theorem test_txLenLo_empty : nextIs (exec .txLenLo
      (State.reset.setTx ⟨7#4, 0x0009#16, 0#16, 0xFFFF#16, 0#16, 0#8⟩))
    (fun t => emitted t == some 0x00#8 && t.tx.phase == 0#4) = true := by decide

/-- V-TX-03a: payload byte 0 is 99. -/
theorem test_txData_reserved : nextIs (exec .txData (txState 8#4 0#16 0#8))
    (fun t => emitted t == some 0x98#8 && t.tx.phase == 9#4 && t.tx.hold == 0x99#8 &&
      t.tx.idx == 0#16) = true := by decide

/-- V-TX-03b: with END off the last payload byte, 97, goes out raw and ends the frame. -/
theorem test_txData_last : nextIs (exec .txData (withParams endOff (txState 8#4 3#16 0x98#8)))
    (fun t => emitted t == some 0x97#8 && t.tx.phase == 0#4 && t.tx.idx == 4#16 &&
      t.tx.hold == 0x98#8) = true := by decide

/-- V-TX-03a: the held byte, with more to come and as the last. -/
theorem test_txDataEsc :
    nextIs (exec .txDataEsc (txState 9#4 0#16 0x99#8))
      (fun t => emitted t == some 0x99#8 && t.tx.phase == 8#4 && t.tx.idx == 1#16) = true ∧
    nextIs (exec .txDataEsc (txState 9#4 3#16 0x97#8))
      (fun t => emitted t == some 0x97#8 && t.tx.phase == 0#4 && t.tx.idx == 4#16) = true := by decide

/-- V-TX-05a. -/
theorem test_txEndmk : nextIs (exec .txEndmk (txState 10#4 4#16 0x97#8))
    (fun t => emitted t == some 0x97#8 && t.tx.phase == 0#4) = true := by decide

/-- V-TX-11. -/
theorem test_txRsvd :
    nextIs (exec .txRsvdB (txState 11#4 0#16 0#8))
      (fun t => t.txFault == some .reservedTxPhase && t.obs.txBytes == []) = true ∧
    nextIs (exec (.txRsvdC 3#2) (txState 15#4 0#16 0#8))
      (fun t => t.txFault == some .reservedTxPhase) = true := by decide

/-! ## The control rows and PayWrite -/

/-- V-CTL-01: the record fields stay, and the consumer has the payload. -/
theorem test_evtAck : nextIs (exec .evtAck eventState)
    (fun t => t.evt == { eventState.evt with pending := false } && rxReady t &&
      t.obs.events == [⟨0#2, 0#3, 3#16, 4#16, 4#16, 4#8, [1#8, 2#8, 3#8, 4#8]⟩]) = true := by decide

/-- V-CTL-02. -/
theorem test_evtAck_nothing : nextIs (exec .evtAck State.reset) (fun t => t == State.reset) = true := by
  decide

/-- V-EXC-02. -/
theorem test_timeout :
    nextIs (exec .timeout (withParams timed (rxState 1#3 1#1 0x0012#16 0#16 0#16 0#16)))
    (fun t => t.evt == ⟨true, 1#2, 3#3, 0#16, 0#16, 0#16, 0#8⟩ && t.rx == RxRegs.reset) = true := by
  decide

/-- V-EXC-04 and V-EXC-06. -/
theorem test_timeout_not_enabled :
    nextIs (exec .timeout (withParams timed State.reset)) (fun t => !t.evt.pending) = true ∧
    nextIs (exec .timeout (rxState 4#3 0#1 0#16 0#16 2#16 1#16)) (fun t => t.rx.state == 4#3) = true := by
  decide

/-- V-RST-01 and V-RST-03: the event is lost, the buffer stays. -/
theorem test_reset : nextIs (exec .reset eventState)
    (fun t => t.evt == EvtRegs.reset && t.rx == RxRegs.reset && t.tx == TxRegs.reset &&
      t.rxBuf == eventState.rxBuf && t.obs.events == []) = true := by decide

/-- R31 and V-CTL-03: the stored byte, and 00 from MAX_PACKET_SIZE on. -/
theorem test_bufRead :
    nextIs (exec (.bufRead 2#16) eventState) (fun t => t.obs.bufRead == some (2#16, 0x03#8)) = true ∧
    nextIs (exec (.bufRead 256#16) eventState)
      (fun t => t.obs.bufRead == some (256#16, 0x00#8)) = true := by decide

/-- V-TX-10. -/
theorem test_payWrite :
    nextIs (execPayWrite 1#16 0x55#8 (txState 8#4 0#16 0#8))
      (fun t => t.txFault == some .payloadChangedDuringSend) = true ∧
    nextIs (execPayWrite 4#16 0x55#8 (txState 8#4 0#16 0#8))
      (fun t => t.txFault == none && payByte t 4 == 0x55#8) = true := by decide

/-! ## The step and the codec -/

/-- V-RX-29: the byte waits on the port. -/
theorem test_byte_waits : nextIs (step (offered [0x97#8] eventState))
    (fun t => t.env.rxIn == [0x97#8] && t.evt == eventState.evt) = true := by decide

/-- A half with a recorded fault stops (93_implementation_defined.md section 1). -/
theorem test_recorded_fault_stops :
    faultIs (step (offered [0x99#8] (State.reset.setRxFault (some .reservedParserState))))
      .reservedParserState = true := by decide

/-- V-CK-01, V-CK-05, V-CK-14, V-CK-18, V-CK-19, V-CK-24. -/
theorem test_checksum :
    checksum [] = 0xFFFF#16 ∧ checksum [0x01#8, 0x02#8] = 0x0102#16 ∧
    checksum [0x02#8, 0xFF#8] = 0x0000#16 ∧ checksum [0x80#8, 0x00#8, 0x00#8] = 0x7C7F#16 ∧
    checksum [0x00#8, 0x00#8, 0x80#8] = 0x7C7F#16 ∧
    checksum [0x99#8, 0x00#8, 0x98#8, 0x97#8] = 0x26C7#16 := by decide

/-- V-ESC-05, V-ESC-06, V-ESC-09, V-ESC-11. -/
theorem test_escape :
    escape true [0x99#8, 0x00#8, 0x98#8, 0x97#8] =
      [0x98#8, 0x99#8, 0x00#8, 0x98#8, 0x98#8, 0x98#8, 0x97#8] ∧
    escape false [0x99#8, 0x00#8, 0x98#8, 0x97#8] =
      [0x98#8, 0x99#8, 0x00#8, 0x98#8, 0x98#8, 0x97#8] ∧
    escape true [0x9A#8, 0x96#8, 0x00#8, 0xFF#8] = [0x9A#8, 0x96#8, 0x00#8, 0xFF#8] ∧
    unescape [0x98#8, 0x98#8, 0x98#8, 0x98#8] = [0x98#8, 0x98#8] := by decide

/-- R68's worked example. -/
theorem test_encode_frame : encodeFrame true 0x0102#16 [0x99#8, 0x00#8, 0x98#8, 0x97#8] =
    [0x99#8, 0x26#8, 0xC7#8, 0x01#8, 0x02#8, 0x00#8, 0x04#8, 0x98#8, 0x99#8, 0x00#8, 0x98#8, 0x98#8,
     0x98#8, 0x97#8] := by decide

/-! ## Witnesses: concrete states and operands that meet all the hypotheses of a statement, per clause -/

theorem witness_DecodeOfEncodeIsIdentity :
    Instr.wellFormed Params.default .rxWfhEnd = true ∧ Instr.wellFormed endOff (.rxWfhOof 0x97#8) = true ∧
    Instr.wellFormed Params.default (.rxRdataByte 0x9A#8) = true := by decide

theorem witness_EncodeOfDecodedWord :
    (0x0FFFFFFFF#33).extractLsb' 32 1 = 0#1 ∧ (0x1FFFFFFFF#33).extractLsb' 32 1 = 1#1 ∧
    decodeTxEmit 0xF#4 = .ok (.txRsvdC 3#2) := by decide

theorem witness_StepRunsDecodedInstruction_ports :
    nextAction (offered [0x99#8] State.reset) = some .rxByte ∧
    (offered [0x99#8] State.reset).env.rxIn = [0x99#8] ∧
    (offered [0x99#8] State.reset).evt.pending = false ∧
    nextAction (commanded [0#33] State.reset) = some .txCmd ∧
    (commanded [0#33] State.reset).env.cmdIn = [0#33] ∧
    (commanded [0#33] State.reset).tx.phase = TxPhase.idle := by decide

theorem witness_StepRunsDecodedInstruction_actions :
    nextAction (schedule .txEmit (txState 15#4 0#16 0#8)) = some .txEmit ∧
    decodeTxEmit (schedule .txEmit (txState 15#4 0#16 0#8)).tx.phase = .ok (.txRsvdC 3#2) ∧
    nextAction (schedule .evtAck State.reset) = some .evtAck ∧
    nextAction (schedule .timeout State.reset) = some .timeout ∧
    nextAction (schedule .reset State.reset) = some .reset ∧
    nextAction (schedule (.bufRead 0xFFFF#16) State.reset) = some (.bufRead 0xFFFF#16) ∧
    nextAction (schedule (.payWrite 0#16 1#8) State.reset) = some (.payWrite 0#16 1#8) := by decide

theorem witness_PortsHoldWhatIsNotTaken :
    nextAction (offered [0x97#8] eventState) = some .rxByte ∧
    (offered [0x97#8] eventState).evt.pending = true ∧
    nextAction (commanded [0#33] (txState 1#4 0#16 0#8)) = some .txCmd ∧
    (commanded [0#33] (txState 1#4 0#16 0#8)).tx.phase ≠ TxPhase.idle ∧
    nextAction (schedule .txEmit State.reset) = some .txEmit ∧
    (schedule .txEmit State.reset).tx.phase = TxPhase.idle ∧ nextAction State.reset = none := by decide

/-- For RxWfhHdrStartsFrame, RxWfhEndSignalsBoundary, RxWfhOofRaisesOutOfFrameByte,
RxRsvdRecordsReservedParserState, RxRdataEscEntersResc, RxRdataHdrResynchronizes. -/
theorem witness_ready_parser :
    (rxState 4#3 0#1 1#16 2#16 3#16 1#16).rxFault = none ∧
    (rxState 4#3 0#1 1#16 2#16 3#16 1#16).evt.pending = false := by decide

/-- For RxRckAssemblesChecksum and RxRtidAssemblesTopic: both clauses. -/
theorem witness_header_fields :
    (rxState 1#3 0#1 0#16 0#16 0#16 0#16).rxFault = none ∧
    (rxState 1#3 0#1 0#16 0#16 0#16 0#16).evt.pending = false ∧
    (rxState 1#3 0#1 0#16 0#16 0#16 0#16).rx.idx = 0#1 ∧
    (rxState 1#3 1#1 0#16 0#16 0#16 0#16).rxFault = none ∧
    (rxState 1#3 1#1 0#16 0#16 0#16 0#16).evt.pending = false ∧
    (rxState 1#3 1#1 0#16 0#16 0#16 0#16).rx.idx = 1#1 := by decide

/-- The hypotheses of RxRlenChecksLength before its clauses. -/
def rlenReady (s : State) (b : Byte) (l : Half) : Bool :=
  s.rxFault == none && !s.evt.pending && l == (s.rx.len <<< (8 : Nat)) ||| b.setWidth 16

/-- Each clause at the edge of its range: 257 is too long, 0 with the right and a wrong checksum, 256 and 1
are accepted. -/
theorem witness_RxRlenChecksLength :
    (let s := rxState 3#3 0#1 0#16 0#16 0#16 0#16
     rlenReady s 1#8 1#16 = true ∧ s.rx.idx = 0#1) ∧
    (let s := rxState 3#3 1#1 0#16 0#16 1#16 0#16
     rlenReady s 1#8 257#16 = true ∧ s.rx.idx = 1#1 ∧ s.params.maxPacketSize < 257#16) ∧
    (let s := rxState 3#3 1#1 0xFFFF#16 0#16 0#16 0#16
     rlenReady s 0#8 0#16 = true ∧ s.rx.idx = 1#1 ∧ s.rx.chk = 0xFFFF#16) ∧
    (let s := rxState 3#3 1#1 0xFFFE#16 0#16 0#16 0#16
     rlenReady s 0#8 0#16 = true ∧ s.rx.idx = 1#1 ∧ s.rx.chk ≠ 0xFFFF#16) ∧
    (let s := rxState 3#3 1#1 0#16 0#16 1#16 0#16
     rlenReady s 0#8 256#16 = true ∧ s.rx.idx = 1#1 ∧ (256#16 : Half) ≠ 0#16 ∧
      256#16 ≤ s.params.maxPacketSize) ∧
    (let s := rxState 3#3 1#1 0#16 0#16 0#16 0#16
     rlenReady s 1#8 1#16 = true ∧ s.rx.idx = 1#1 ∧ (1#16 : Half) ≠ 0#16 ∧
      1#16 ≤ s.params.maxPacketSize) := by decide

/-- For RxRdataByteStores and RxRescStoresLiterallyOrRejects, the three clauses of a store: the guard at
equality, the first cell, and the last cell of a full buffer. -/
theorem witness_store_clauses :
    (let s := rxState 4#3 0#1 0#16 0#16 2#16 2#16
     s.rxFault = none ∧ s.evt.pending = false ∧ s.rx.len ≤ s.rx.count) ∧
    (let s := rxState 4#3 0#1 0#16 0#16 256#16 0#16
     s.rxFault = none ∧ s.evt.pending = false ∧ s.rx.count < s.rx.len ∧
      s.rx.count + 1#16 ≠ s.rx.len ∧ s.rx.count < s.params.maxPacketSize) ∧
    (let s := rxState 4#3 0#1 0#16 0#16 256#16 255#16
     s.rxFault = none ∧ s.evt.pending = false ∧ s.rx.count < s.rx.len ∧
      s.rx.count + 1#16 = s.rx.len ∧ s.rx.len ≤ s.params.maxPacketSize) := by decide

theorem witness_RxRescStoresLiterallyOrRejects :
    (let s := withParams strict (rxState 5#3 0#1 0#16 0#16 2#16 0#16)
     s.rxFault = none ∧ s.evt.pending = false ∧ s.params.strictEscape = true ∧
      isReserved s.params.endMarker 0x96#8 = false ∧ isReserved s.params.endMarker 0x97#8 = true) ∧
    (let s := rxState 5#3 0#1 0#16 0#16 2#16 0#16
     s.rxFault = none ∧ s.evt.pending = false ∧ s.params.strictEscape = false) := by decide

/-- R91 in a state no run reaches: nothing is written past the buffer, and the frame completes. -/
theorem test_store_outside :
    nextIs (exec (.rxRdataByte 0x41#8) (withParams (tiny 0#16) (rxState 4#3 0#1 0#16 1#16 2#16 0#16)))
      (fun t => t.rxBuf == [] && t.rx.count == 1#16) = true := by decide

/-- For RxStoreOutsideBufferWritesNothing: both clauses at the first index past the buffer. -/
theorem witness_RxStoreOutsideBufferWritesNothing :
    (let s := rxState 4#3 0#1 0#16 0#16 258#16 256#16
     s.rxFault = none ∧ s.evt.pending = false ∧ s.rx.count < s.rx.len ∧
      s.params.maxPacketSize ≤ s.rx.count ∧ s.rx.count + 1#16 ≠ s.rx.len) ∧
    (let s := rxState 5#3 0#1 0#16 0#16 257#16 256#16
     s.rxFault = none ∧ s.evt.pending = false ∧ s.rx.count < s.rx.len ∧
      s.params.maxPacketSize ≤ s.rx.count ∧ s.rx.count + 1#16 = s.rx.len ∧
      s.params.strictEscape = false) := by decide

theorem witness_RxRowsWaitWhileEventPending :
    eventState.evt.pending = true := by decide

theorem witness_RecordedFaultStopsItsHalf :
    (let s := offered [0x99#8] (State.reset.setRxFault (some .reservedParserState))
     s.rxFault = some .reservedParserState ∧ nextAction s = some .rxByte ∧ s.env.rxIn = [0x99#8] ∧
      s.evt.pending = false) ∧
    (let s := schedule .timeout (withParams timed
      ((rxState 6#3 0#1 0#16 0#16 0#16 0#16).setRxFault (some .reservedParserState)))
     s.rxFault = some .reservedParserState ∧ nextAction s = some .timeout ∧
      timeoutEnabled s = true) ∧
    (let s := schedule .timeout (State.reset.setRxFault (some .reservedParserState))
     nextAction s = some .timeout ∧ timeoutEnabled s = false) ∧
    (let s := commanded [0#33] (State.reset.setTxFault (some .payloadChangedDuringSend))
     s.txFault = some .payloadChangedDuringSend ∧ nextAction s = some .txCmd ∧ s.env.cmdIn = [0#33] ∧
      s.tx.phase = TxPhase.idle) ∧
    (let s := schedule .txEmit ((txState 8#4 0#16 0#8).setTxFault (some .payloadChangedDuringSend))
     s.txFault = some .payloadChangedDuringSend ∧ nextAction s = some .txEmit ∧
      s.tx.phase ≠ TxPhase.idle) := by decide

/-- For SendFrameLoadsSerializer, SendEndStartsMarker (both clauses) and SendFrameQueuesEncodedFrame. -/
theorem witness_idle_serializer :
    State.reset.txFault = none ∧ State.reset.tx.phase = TxPhase.idle ∧
    State.reset.params.endMarker = true ∧ (withParams endOff State.reset).txFault = none ∧
    (withParams endOff State.reset).tx.phase = TxPhase.idle ∧
    (withParams endOff State.reset).params.endMarker = false := by decide

theorem witness_CommandWaitsWhileBusy :
    (let s := commanded [0x100000000#33] (txState 1#4 0#16 0#8)
     s.tx.phase ≠ TxPhase.idle ∧ nextAction s = some .txCmd) := by decide

/-- For TxHeaderPhasesEmitHeader (each clause), TxDataEscEmitsHeldByte, TxEndmkEmitsMarker,
TxRsvdRecordsReservedTxPhase (both clauses): no fault, in the phase named. -/
theorem witness_tx_phases : ∀ ph : BitVec 4,
    (txState ph 0#16 0#8).txFault = none ∧ (txState ph 0#16 0#8).tx.phase = ph := fun _ => ⟨rfl, rfl⟩

/-- Both clauses of TxDataEmitsPayloadOrEscape: payload bytes 99 and 00. -/
theorem witness_TxDataEmitsPayloadOrEscape :
    (let s := txState 8#4 0#16 0#8
     s.txFault = none ∧ s.tx.phase = TxPhase.data ∧
      isReserved s.params.endMarker (payByte s s.tx.idx.toNat) = true) ∧
    (let s := txState 8#4 1#16 0#8
     s.txFault = none ∧ s.tx.phase = TxPhase.data ∧
      isReserved s.params.endMarker (payByte s s.tx.idx.toNat) = false) := by decide

theorem witness_TxEmitTransfersTxData :
    (let s := schedule .txEmit (txState 10#4 0#16 0#8)
     nextAction s = some .txEmit ∧ s.txFault = none ∧ s.tx.phase ≠ TxPhase.idle ∧
      s.tx.phase ≤ TxPhase.endmk) := by decide

theorem witness_EvtAckTakesEvent :
    eventState.evt.pending = true ∧ State.reset.evt.pending = false := by decide

theorem witness_TimeoutAbortsFrame :
    (let s := withParams timed (rxState 1#3 1#1 0x12#16 0#16 0#16 0#16)
     s.rxFault = none ∧ s.params.timeoutPresent = true ∧ s.rx.state ≠ RxState.wfh ∧
      s.evt.pending = false) ∧
    (State.reset.rxFault = none ∧ State.reset.params.timeoutPresent = false) ∧
    ((withParams timed State.reset).rxFault = none ∧
      (withParams timed State.reset).rx.state = RxState.wfh) ∧
    ((withParams timed eventState).rxFault = none ∧
      (withParams timed eventState).evt.pending = true) := by decide

/-- Each clause of BufReadAnswersCell, the last two at the boundary 256. -/
theorem witness_BufReadAnswersCell :
    (3#16 < eventState.params.maxPacketSize ∧ Memory.read eventState.rxBuf (3#16).toNat = some 4#8) ∧
    255#16 < eventState.params.maxPacketSize ∧ eventState.params.maxPacketSize ≤ 256#16 := by decide

/-- Each clause of PayWriteStoresByteAndGuardsSend: idle; address 4 of a frame of 4; address 3. -/
theorem witness_PayWriteStoresByteAndGuardsSend :
    State.reset.tx.phase = TxPhase.idle ∧ (txState 8#4 0#16 0#8).tx.len ≤ 4#16 ∧
    (txState 8#4 0#16 0#8).tx.phase ≠ TxPhase.idle ∧ 3#16 < (txState 8#4 0#16 0#8).tx.len ∧
    (txState 8#4 0#16 0#8).txFault = none := by decide

/-- The hypothesis of ChecksumRecurrence, and of ChecksumDetectsOneChangedByte. -/
theorem witness_checksum : checksum [0x01#8] = 0xFF#8 ++ 0x00#8 ∧ (0x00#8 : Byte) ≠ 0x80#8 := by decide

/-- EscapeShape's third clause: an escaped form with 99 in it. -/
theorem witness_EscapeShape : (escape true [0x99#8])[1]? = some 0x99#8 := by decide

/-! States with the invariant: in mid-frame with a byte offered, with an event pending, while sending. -/

/-- V-RX-17b's end state: one payload byte of two received. -/
def midFrame : State :=
  offered [0x42#8] ((rxState 4#3 0#1 0x1234#16 0x0003#16 0x0002#16 0x0001#16).setRxBuf [(0, 0x41#8)])

theorem inv_midFrame : Inv midFrame where
  mem := ⟨by decide, by decide, by decide, by decide⟩
  rx := ⟨by decide, by decide, by decide, by decide, by decide, by decide, by decide, by decide, by decide,
    by decide⟩
  evt := ⟨by decide, by decide, by decide, by decide, by decide, by decide⟩
  tx := ⟨by decide, by decide, by decide, by decide, by decide, by decide⟩

/-- For StepKeepsInvariant, StepNeverStopsWithoutRecordedFault, NoStepChangesParameters, RxBufWrittenOnlyByStore (its
second alternative). -/
theorem witness_step_from_inv :
    Inv midFrame ∧ midFrame.rxFault = none ∧ midFrame.txFault = none ∧
      nextAction midFrame = some .rxByte ∧ ∃ t, step midFrame = .next t :=
  ⟨inv_midFrame, rfl, rfl, rfl, _, rfl⟩

/-- For EachHalfLeavesTheOtherAlone: both clauses. -/
theorem witness_EachHalfLeavesTheOtherAlone :
    (nextAction midFrame = some .rxByte ∧ ∃ t, step midFrame = .next t) ∧
    (nextAction (schedule .txEmit (txState 8#4 0#16 0#8)) = some .txEmit ∧
      ∃ t, step (schedule .txEmit (txState 8#4 0#16 0#8)) = .next t) :=
  ⟨⟨rfl, _, rfl⟩, rfl, _, rfl⟩

theorem witness_PendingEventIsStable :
    (let s := schedule .evtAck eventState
     s.evt.pending = true ∧ (∃ t, step s = .next t) ∧ nextAction s = some .evtAck) ∧
    (let s := offered [0x97#8] eventState
     s.evt.pending = true ∧ (∃ t, step s = .next t) ∧ nextAction s = some .rxByte) :=
  ⟨⟨rfl, ⟨_, rfl⟩, rfl⟩, rfl, ⟨_, rfl⟩, rfl⟩

theorem witness_PayWrittenOnlyByPayWrite :
    nextAction (schedule (.payWrite 0#16 1#8) State.reset) = some (.payWrite 0#16 1#8) ∧
      ∃ t, step (schedule (.payWrite 0#16 1#8) State.reset) = .next t := ⟨rfl, _, rfl⟩

/-- V-RX-24's last byte. -/
def lastByte : State :=
  offered [0xFF#8] ((rxState 4#3 0#1 0x0000#16 0x0001#16 0x0002#16 0x0001#16).setRxBuf [(0, 0x02#8)])

theorem inv_lastByte : Inv lastByte where
  mem := ⟨by decide, by decide, by decide, by decide⟩
  rx := ⟨by decide, by decide, by decide, by decide, by decide, by decide, by decide, by decide, by decide,
    by decide⟩
  evt := ⟨by decide, by decide, by decide, by decide, by decide, by decide⟩
  tx := ⟨by decide, by decide, by decide, by decide, by decide, by decide⟩

theorem witness_PacketOnlyWithMatchingChecksum :
    Inv lastByte ∧ lastByte.evt.pending = false ∧
      nextIs (step lastByte) (fun t => t.evt.pending && t.evt.type == EvtType.packet) = true :=
  ⟨inv_lastByte, rfl, by decide⟩

/-- For StepStopsOnlyWithRecordedFault: a step that stops. -/
theorem witness_StepStopsOnlyWithRecordedFault :
    step (offered [0x99#8] (State.reset.setRxFault (some .reservedParserState))) =
      .fault .reservedParserState := rfl

/-- For FaultsRecordedOnlyForNamedCauses: a step that records each fault. -/
theorem witness_FaultsRecordedOnlyForNamedCauses :
    nextIs (step (offered [0x12#8] (rxState 7#3 0#1 0#16 0#16 0#16 0#16)))
      (fun t => t.rxFault == some .reservedParserState) = true ∧
    nextIs (step (schedule .txEmit (txState 11#4 0#16 0#8)))
      (fun t => t.txFault == some .reservedTxPhase) = true ∧
    nextIs (step (schedule (.payWrite 3#16 0x55#8) (txState 8#4 0#16 0#8)))
      (fun t => t.txFault == some .payloadChangedDuringSend) = true := by decide

/-- A serializer in the payload, with a TxEmit chosen. -/
def midSend : State := schedule .txEmit (txState 8#4 1#16 0x99#8)

theorem inv_midSend : Inv midSend where
  mem := ⟨by decide, by decide, by decide, by decide⟩
  rx := ⟨by decide, by decide, by decide, by decide, by decide, by decide, by decide, by decide, by decide,
    by decide⟩
  evt := ⟨by decide, by decide, by decide, by decide, by decide, by decide⟩
  tx := ⟨by decide, by decide, by decide, by decide, by decide, by decide⟩

theorem witness_EmittedAndRemainingBytesConserved :
    Inv midSend ∧ midSend.txFault = none ∧ (∃ t, step midSend = .next t) ∧
      nextAction midSend = some .txEmit := ⟨inv_midSend, rfl, ⟨_, rfl⟩, rfl⟩

/-- V-TX-03a's payload. -/
theorem witness_SentFrameIsEncodeFrame :
    (let P : List Byte := [0x99#8, 0x00#8, 0x98#8, 0x97#8]
     let s := txState 0#4 0#16 0#8
     P.length < 65536 ∧ s.txFault = none ∧ s.tx.phase = TxPhase.idle ∧
      (∀ i, i < P.length → payByte s i = P.getD i 0#8) ∧
      14 = 7 + P.length + P.countP (isReserved s.params.endMarker)) := by decide

/-- V-RX-12, V-RX-23, and V-RX-06's frame in a receiver of just its size. -/
theorem witness_FrameRoundTrip :
    (let s := withParams (tiny 4#16) State.reset
     s.rxFault = none ∧ s.rx.state = RxState.wfh ∧ s.evt.pending = false ∧
      [0x99#8, 0x00#8, 0x98#8, 0x97#8].length ≤ s.params.maxPacketSize.toNat ∧
      true = s.params.endMarker ∧ s.params.strictEscape = false) := by decide

/-- V-RX-22b: a receiver with no buffer. -/
theorem witness_TooLongFrameOverflows :
    (let s := withParams (tiny 0#16) State.reset
     s.rxFault = none ∧ s.rx.state = RxState.wfh ∧ s.evt.pending = false ∧
      s.params.maxPacketSize.toNat < [0x00#8].length ∧ [0x00#8].length < 65536) := by decide

/-- The state R95 names as its worst case, RCK with no byte of the field received, in a small block. -/
def worstCase : State := withParams (tiny 1#16) (rxState 1#3 0#1 0#16 0#16 0#16 0#16)

theorem inv_worstCase : Inv worstCase where
  mem := ⟨by decide, by decide, by decide, by decide⟩
  rx := ⟨by decide, by decide, by decide, by decide, by decide, by decide, by decide, by decide, by decide,
    by decide⟩
  evt := ⟨by decide, by decide, by decide, by decide, by decide, by decide⟩
  tx := ⟨by decide, by decide, by decide, by decide, by decide, by decide⟩

theorem witness_BoundedReturnToWfh :
    Inv worstCase ∧ worstCase.evt.pending = false ∧
    (∀ b ∈ [0x12#8, 0x34#8, 0x00#8, 0x03#8, 0x00#8, 0x01#8, 0x98#8, 0x41#8], b ≠ 0x99#8) ∧
    6 + 2 * worstCase.params.maxPacketSize.toNat ≤
      [0x12#8, 0x34#8, 0x00#8, 0x03#8, 0x00#8, 0x01#8, 0x98#8, 0x41#8].length :=
  ⟨inv_worstCase, rfl, by decide, by decide⟩

end Sys2Proof.Tests
end

section
/-! Scope (00_scope.md): the rules for a chosen action, what every action leaves unchanged, and the statements of
that family. -/

namespace Sys2Proof.Machine

/-! ## Taking the chosen action -/

@[simp] theorem dropAction_params (s : State) : (dropAction s).params = s.params := rfl
@[simp] theorem dropAction_rx (s : State) : (dropAction s).rx = s.rx := rfl
@[simp] theorem dropAction_rxBuf (s : State) : (dropAction s).rxBuf = s.rxBuf := rfl
@[simp] theorem dropAction_evt (s : State) : (dropAction s).evt = s.evt := rfl
@[simp] theorem dropAction_tx (s : State) : (dropAction s).tx = s.tx := rfl
@[simp] theorem dropAction_pay (s : State) : (dropAction s).pay = s.pay := rfl
@[simp] theorem dropAction_powerOn (s : State) : (dropAction s).powerOn = s.powerOn := rfl
@[simp] theorem dropAction_rxFault (s : State) : (dropAction s).rxFault = s.rxFault := rfl
@[simp] theorem dropAction_txFault (s : State) : (dropAction s).txFault = s.txFault := rfl
@[simp] theorem dropAction_env (s : State) :
    (dropAction s).env = { s.env with sched := s.env.sched.tail } := rfl
@[simp] theorem dropAction_obs (s : State) : (dropAction s).obs = s.obs := rfl

/-- `step_cons` in the terms of the statements. -/
theorem step_of_nextAction {s : State} {a : Action} (h : nextAction s = some a) :
    step s = takeAction a (dropAction s) := by
  obtain ⟨rest, hs⟩ := List.head?_eq_some_iff.mp h
  exact step_cons hs

/-- The state an RX row runs in within a step. -/
theorem tookByte_dropAction {s : State} {b : Byte} {bs : List Byte} (h : s.env.rxIn = b :: bs) :
    tookByte (dropAction s) =
      { s with env := { s.env with rxIn := bs, sched := s.env.sched.tail } } := by
  simp [tookByte, dropAction, State.setEnv, h]

/-- The state a command runs in within a step. -/
theorem tookCmd_dropAction {s : State} {c : BitVec 33} {cs : List (BitVec 33)}
    (h : s.env.cmdIn = c :: cs) :
    tookCmd (dropAction s) =
      { s with env := { s.env with cmdIn := cs, sched := s.env.sched.tail } } := by
  simp [tookCmd, dropAction, State.setEnv, h]

/-- The emit decoder has no row for IDLE (30_encoding.md R54). -/
theorem ne_idle_of_decodeTxEmit {e : BitVec 4} {i : Instr} (h : decodeTxEmit e = .ok i) :
    e ≠ TxPhase.idle := by
  rintro rfl
  cases h

/-! ## Inversion of the tx_cmd rows, the ctl rows and PayWrite -/

/-- What a command does to an idle serializer. -/
inductive CmdEffect (s : State) (c : BitVec 33) : State → Prop where
  /-- R101. -/
  | frame : c.extractLsb' 32 1 = 0#1 → CmdEffect s c (s.setTx
      { phase := TxPhase.hdr, topic := c.extractLsb' 16 16, len := c.extractLsb' 0 16,
        chk := checksum (payBytes s (c.extractLsb' 0 16).toNat), idx := 0#16, hold := 0#8 })
  /-- R102, in a block with END markers. -/
  | marker : c.extractLsb' 32 1 ≠ 0#1 → s.params.endMarker = true →
      CmdEffect s c (setPhase TxPhase.endmk s)
  /-- R102, in a block without. -/
  | ignored : c.extractLsb' 32 1 ≠ 0#1 → s.params.endMarker = false → CmdEffect s c s

/-- The row a command selects, on an idle serializer. -/
theorem cmdRow_next {s t : State} {c : BitVec 33} (hp : s.tx.phase = TxPhase.idle)
    (h : exec (decodeTxCmd c) s = .next t) : s.txFault = none ∧ CmdEffect s c t := by
  have accepted : ∀ {r : Result}, txCmdStep s r = .next t → s.txFault = none ∧ r = .next t := by
    intro r hr
    obtain ⟨hp', -⟩ | ⟨-, hr⟩ := txCmdStep_next hr
    · exact absurd hp hp'
    · exact hr
  unfold decodeTxCmd at h
  split_ifs at h with hop
  · obtain ⟨hf, h⟩ := accepted h
    cases h
    exact ⟨hf, .frame hop⟩
  · obtain ⟨hf, h⟩ := accepted h
    refine ⟨hf, ?_⟩
    split_ifs at h with he
    · cases h
      exact .marker hop he
    · cases h
      exact .ignored hop (by simpa using he)

/-- Inversion of EVT_ACK. -/
theorem evtAck_next {s t : State} (h : exec .evtAck s = .next t) :
    (s.evt.pending = true ∧ t = takeEvent s) ∨ (s.evt.pending = false ∧ t = s) := by
  change (if s.evt.pending then _ else _) = _ at h
  split_ifs at h with hp
  · cases h
    exact .inl ⟨hp, rfl⟩
  · cases h
    exact .inr ⟨by simpa using hp, rfl⟩

/-- Inversion of TIMEOUT. -/
theorem timeout_next {s t : State} (h : exec .timeout s = .next t) :
    (timeoutEnabled s = false ∧ t = s) ∨
      (timeoutEnabled s = true ∧ s.rxFault = none ∧
        t = enterWfh (raiseError .incompletePacket s.rx.topic s.rx.len s.rx.count 0x00#8 s)) := by
  obtain h | ⟨he, hf, h⟩ := timeoutStep_next h
  · exact .inl h
  · cases h
    exact .inr ⟨he, hf, rfl⟩

/-- Inversion of PayWrite. -/
theorem payWrite_next {s t : State} {a : Half} {v : Byte} (h : execPayWrite a v s = .next t) :
    (payWriteBreaks a s = false ∧ t = s.setPay (Memory.write s.pay a.toNat v)) ∨
      (payWriteBreaks a s = true ∧ t = (s.setPay (Memory.write s.pay a.toNat v)).setTxFault
        (some (s.txFault.getD .payloadChangedDuringSend))) := by
  unfold execPayWrite at h
  split_ifs at h with hb
  · cases h
    exact .inr ⟨hb, rfl⟩
  · cases h
    exact .inl ⟨by simpa using hb, rfl⟩

/-! ## What is fixed before the block operates -/

/-- `t` is a state of the same block as `s`: the parameters of 00_scope.md R5 and the power-on name. -/
def SameBlock (s t : State) : Prop := t.params = s.params ∧ t.powerOn = s.powerOn

theorem RxEffect.sameBlock {s t : State} {b : Byte} (h : RxEffect s b t) : SameBlock s t := by
  cases h <;> exact ⟨rfl, rfl⟩

theorem TxEffect.sameBlock {s t : State} (h : TxEffect s t) : SameBlock s t := by
  cases h <;> exact ⟨rfl, rfl⟩

theorem CmdEffect.sameBlock {s t : State} {c : BitVec 33} (h : CmdEffect s c t) : SameBlock s t := by
  cases h <;> exact ⟨rfl, rfl⟩

/-- Every action leaves the block the one it was. -/
theorem takeAction_sameBlock {s t : State} {a : Action} (h : takeAction a s = .next t) :
    SameBlock s t := by
  cases a with
  | rxByte =>
    obtain ⟨-, rfl⟩ | ⟨b, bs, -, hp, h⟩ := takeAction_rxByte_next h
    · exact ⟨rfl, rfl⟩
    · exact (rxRow_next (s := tookByte s) hp h).2.sameBlock
  | txCmd =>
    obtain ⟨-, rfl⟩ | ⟨c, cs, -, hp, h⟩ := takeAction_txCmd_next h
    · exact ⟨rfl, rfl⟩
    · exact (cmdRow_next (s := tookCmd s) hp h).2.sameBlock
  | txEmit =>
    obtain ⟨-, rfl⟩ | ⟨i, hp, hi, h⟩ := takeAction_txEmit_next h
    · exact ⟨rfl, rfl⟩
    · exact (txRow_next hp hi h).2.sameBlock
  | evtAck => obtain ⟨-, rfl⟩ | ⟨-, rfl⟩ := evtAck_next h <;> exact ⟨rfl, rfl⟩
  | timeout => obtain ⟨-, rfl⟩ | ⟨-, -, rfl⟩ := timeout_next h <;> exact ⟨rfl, rfl⟩
  | reset => cases h; exact ⟨rfl, rfl⟩
  | bufRead addr => cases h; exact ⟨rfl, rfl⟩
  | payWrite addr v => obtain ⟨-, rfl⟩ | ⟨-, rfl⟩ := payWrite_next h <;> exact ⟨rfl, rfl⟩

/-! ## The statements -/

/-- Settles O48: a step waits or takes one action, and no action changes what R5 fixes. -/
theorem noStepChangesParameters : Obligations.NoStepChangesParameters := by
  intro s t h
  obtain ⟨-, rfl⟩ | ⟨a, -, h⟩ := step_next h
  · exact ⟨rfl, rfl⟩
  · simpa [SameBlock] using takeAction_sameBlock h

/-- Settles O5: one clause per action, each by the rule for taking that action. -/
theorem stepRunsDecodedInstruction : Obligations.StepRunsDecodedInstruction := by
  intro s
  refine ⟨?rxByte, ?txCmd, ?txEmit, step_of_nextAction, step_of_nextAction, step_of_nextAction,
    fun _ => step_of_nextAction, fun _ _ => step_of_nextAction⟩
  case rxByte =>
    intro b bs ha hr hp
    rw [step_of_nextAction ha, takeAction_rxByte (s := dropAction s) hr hp, tookByte_dropAction hr,
      dropAction_params, dropAction_rx, rxWord]
  case txCmd =>
    intro c cs ha hc hp
    rw [step_of_nextAction ha, takeAction_txCmd (s := dropAction s) hc hp, tookCmd_dropAction hc]
  case txEmit =>
    intro i ha hi
    rw [step_of_nextAction ha, takeAction_txEmit (s := dropAction s) (ne_idle_of_decodeTxEmit hi) hi]

/-- Settles O19: every rx row is an RxByte step, and none is enabled while an event is pending. -/
theorem rxRowsWaitWhileEventPending : Obligations.RxRowsWaitWhileEventPending := by
  intro s b lo hp
  refine ⟨?_, ?_, ?_, ?_, ?_, ?_, ?_, ?_, ?_, ?_, ?_⟩ <;> exact rxByteStep_stalled hp _

end Sys2Proof.Machine
end

section
/-! The port signals (10_state.md section 3): the byte `tx_data` shows is the byte a TxEmit step transfers. -/

namespace Sys2Proof.Machine

/-! ## `tx_data`, by phase -/

/-- In the header phases `tx_data` shows the header's bytes in order. -/
theorem txDataOut_of_headerPhase {s : State} (h : headerPhase s.tx.phase = true) :
    txDataOut s = (txHeader s)[s.tx.phase.toNat - 1]? := by
  have phases : ∀ e : BitVec 4, headerPhase e = true →
      e = 1#4 ∨ e = 2#4 ∨ e = 3#4 ∨ e = 4#4 ∨ e = 5#4 ∨ e = 6#4 ∨ e = 7#4 := by decide
  rcases phases _ h with e | e | e | e | e | e | e <;> rw [txDataOut, e] <;> rfl

theorem txDataOut_of_data {s : State} (h : s.tx.phase = TxPhase.data) :
    txDataOut s = some (if isReserved s.params.endMarker (payByte s s.tx.idx.toNat) then ESCAPE
      else payByte s s.tx.idx.toNat) := by
  rw [txDataOut, h, apply_ite some]
  rfl

theorem txDataOut_of_dataEsc {s : State} (h : s.tx.phase = TxPhase.dataEsc) :
    txDataOut s = some s.tx.hold := by
  rw [txDataOut, h]
  rfl

theorem txDataOut_of_endmk {s : State} (h : s.tx.phase = TxPhase.endmk) :
    txDataOut s = some ENDMARK := by
  rw [txDataOut, h]
  rfl

@[simp] theorem txDataOut_dropAction (s : State) : txDataOut (dropAction s) = txDataOut s := rfl

/-! ## A TxEmit step -/

/-- Every emit row is a TxEmit step with a next state. -/
theorem exec_of_decodeTxEmit {e : BitVec 4} {i : Instr} (hi : decodeTxEmit e = .ok i) (s : State) :
    ∃ t, exec i s = txEmitStep s (.next t) := by
  obtain ⟨n, hn⟩ := e
  interval_cases n
  · cases hi
  all_goals
    cases hi
    exact ⟨_, rfl⟩

/-- With no fault recorded, a TxEmit in a phase other than IDLE completes, with the phase's effect. -/
theorem takeAction_txEmit_completes {s : State} (hf : s.txFault = none)
    (hp : s.tx.phase ≠ TxPhase.idle) : ∃ t, takeAction .txEmit s = .next t ∧ TxEffect s t := by
  obtain ⟨i, hi⟩ := decodeTxEmit_ok hp
  obtain ⟨t, ht⟩ := exec_of_decodeTxEmit hi s
  rw [txEmitStep_valid hf hp] at ht
  exact ⟨t, (takeAction_txEmit hp hi).trans ht, (txRow_next hp hi ht).2⟩

/-- Up to ENDMK an emission appends the byte `tx_data` shows. -/
theorem TxEffect.appends_txDataOut {s t : State} (h : TxEffect s t) (hp : s.tx.phase ≤ TxPhase.endmk) :
    ∃ b, txDataOut s = some b ∧ t.obs.txBytes = s.obs.txBytes ++ [b] := by
  cases h with
  | header ph b hh _ _ hb => exact ⟨b, (txDataOut_of_headerPhase hh).trans hb, rfl⟩
  | lastHeader e =>
    refine ⟨loByte s.tx.len, ?_, rfl⟩
    rw [txDataOut_of_headerPhase (by rw [e]; rfl), e]
    rfl
  | escape v e hv hr =>
    subst hv
    exact ⟨ESCAPE, by rw [txDataOut_of_data e, if_pos hr], rfl⟩
  | plain v e hv hr =>
    subst hv
    exact ⟨_, by rw [txDataOut_of_data e, if_neg (by simp [hr])], rfl⟩
  | escaped e => exact ⟨s.tx.hold, txDataOut_of_dataEsc e, rfl⟩
  | marker e => exact ⟨ENDMARK, txDataOut_of_endmk e, rfl⟩
  | reserved e => exact absurd e (BitVec.not_lt.mpr hp)

/-! ## The statement -/

/-- Settles O29: the step completes with its phase's effect, and each effect appends what `tx_data` shows. -/
theorem txEmitTransfersTxData : Obligations.TxEmitTransfersTxData := by
  intro s ha hf hp hle
  obtain ⟨t, ht, he⟩ := takeAction_txEmit_completes (s := dropAction s) hf hp
  obtain ⟨b, hb, hbytes⟩ := he.appends_txDataOut hle
  exact ⟨b, t, (txDataOut_dropAction s).symm.trans hb, (step_of_nextAction ha).trans ht, hbytes⟩

end Sys2Proof.Machine
end

section
/-! The two halves of the block (00_scope.md R9, 20_memory.md R41): what the actions of each half leave alone, and
that what they do is the same whatever the other half holds. -/

namespace Sys2Proof.Machine

/-! ## The actions of each half -/

/-- The actions of the RX half and of its consumer. -/
def RxHalfAction (a : Action) : Prop :=
  a = .rxByte ∨ a = .evtAck ∨ a = .timeout ∨ ∃ addr, a = .bufRead addr

/-- The actions of the TX half and of the memory it sends from. -/
def TxHalfAction (a : Action) : Prop := a = .txCmd ∨ a = .txEmit ∨ ∃ addr v, a = .payWrite addr v

/-! ## What each half's actions leave alone -/

/-- `t` has the serializer, PAY, the TX half's fault record, the emitted bytes and the command port of `s`. -/
def TxHalfKept (s t : State) : Prop :=
  t.tx = s.tx ∧ t.txFault = s.txFault ∧ t.pay = s.pay ∧ t.obs.txBytes = s.obs.txBytes ∧
  t.env.cmdIn = s.env.cmdIn

/-- `t` has the parser, the buffer, the event registers, the RX half's fault record, the taken events, the last
buffer read and the RX port of `s`. -/
def RxHalfKept (s t : State) : Prop :=
  t.rx = s.rx ∧ t.rxBuf = s.rxBuf ∧ t.evt = s.evt ∧ t.rxFault = s.rxFault ∧
  t.obs.events = s.obs.events ∧ t.obs.bufRead = s.obs.bufRead ∧ t.env.rxIn = s.env.rxIn

theorem TxHalfKept.refl (s : State) : TxHalfKept s s := ⟨rfl, rfl, rfl, rfl, rfl⟩

theorem RxHalfKept.refl (s : State) : RxHalfKept s s := ⟨rfl, rfl, rfl, rfl, rfl, rfl, rfl⟩

theorem RxEffect.txHalfKept {s t : State} {b : Byte} (h : RxEffect s b t) : TxHalfKept s t := by
  cases h <;> exact ⟨rfl, rfl, rfl, rfl, rfl⟩

theorem TxEffect.rxHalfKept {s t : State} (h : TxEffect s t) : RxHalfKept s t := by
  cases h <;> exact ⟨rfl, rfl, rfl, rfl, rfl, rfl, rfl⟩

theorem CmdEffect.rxHalfKept {s t : State} {c : BitVec 33} (h : CmdEffect s c t) : RxHalfKept s t := by
  cases h <;> exact ⟨rfl, rfl, rfl, rfl, rfl, rfl, rfl⟩

/-- Every RX action keeps the TX half. -/
theorem takeAction_txHalfKept {s t : State} {a : Action} (ha : RxHalfAction a)
    (h : takeAction a s = .next t) : TxHalfKept s t := by
  obtain rfl | rfl | rfl | ⟨addr, rfl⟩ := ha
  case inl =>
    obtain ⟨-, rfl⟩ | ⟨b, bs, -, hp, h⟩ := takeAction_rxByte_next h
    · exact .refl t
    · exact (rxRow_next (s := tookByte s) hp h).2.txHalfKept
  case inr.inl => obtain ⟨-, rfl⟩ | ⟨-, rfl⟩ := evtAck_next h <;> exact ⟨rfl, rfl, rfl, rfl, rfl⟩
  case inr.inr.inl => obtain ⟨-, rfl⟩ | ⟨-, -, rfl⟩ := timeout_next h <;> exact ⟨rfl, rfl, rfl, rfl, rfl⟩
  case inr.inr.inr => cases h; exact .refl s

/-- Every TX action keeps the RX half. -/
theorem takeAction_rxHalfKept {s t : State} {a : Action} (ha : TxHalfAction a)
    (h : takeAction a s = .next t) : RxHalfKept s t := by
  obtain rfl | rfl | ⟨addr, v, rfl⟩ := ha
  case inl =>
    obtain ⟨-, rfl⟩ | ⟨c, cs, -, hp, h⟩ := takeAction_txCmd_next h
    · exact .refl t
    · exact (cmdRow_next (s := tookCmd s) hp h).2.rxHalfKept
  case inr.inl =>
    obtain ⟨-, rfl⟩ | ⟨i, hp, hi, h⟩ := takeAction_txEmit_next h
    · exact .refl t
    · exact (txRow_next hp hi h).2.rxHalfKept
  case inr.inr => obtain ⟨-, rfl⟩ | ⟨-, rfl⟩ := payWrite_next h <;> exact .refl s

/-- Settles O49: a step waits or takes one action, and each half's actions keep the other half. -/
theorem eachHalfLeavesTheOtherAlone : Obligations.EachHalfLeavesTheOtherAlone := by
  intro s t h
  obtain ⟨-, rfl⟩ | ⟨a, ha, h⟩ := step_next h
  · exact ⟨fun _ => TxHalfKept.refl t, fun _ => RxHalfKept.refl t⟩
  · simp only [ha, Option.some.injEq]
    exact ⟨fun hx => takeAction_txHalfKept (s := dropAction s) hx h,
      fun hx => takeAction_rxHalfKept (s := dropAction s) hx h⟩

/-! ## The enabling conditions under a change of the other half -/

@[simp] theorem mapNext_next (f : State → State) (t : State) : mapNext f (.next t) = .next (f t) := rfl

theorem mapNext_ite (f : State → State) (c : Prop) [Decidable c] (x y : Result) :
    mapNext f (if c then x else y) = if c then mapNext f x else mapNext f y := apply_ite (mapNext f) c x y

/-- A change of the state that keeps the RX half's fault record passes through the half's stop. -/
theorem onRxHalf_mapNext {f : State → State} {s : State} (hf : (f s).rxFault = s.rxFault) (x : Result) :
    onRxHalf (f s) (mapNext f x) = mapNext f (onRxHalf s x) := by
  unfold onRxHalf
  rw [hf]
  split <;> rfl

theorem onTxHalf_mapNext {f : State → State} {s : State} (hf : (f s).txFault = s.txFault) (x : Result) :
    onTxHalf (f s) (mapNext f x) = mapNext f (onTxHalf s x) := by
  unfold onTxHalf
  rw [hf]
  split <;> rfl

theorem rxByteStep_mapNext {f : State → State} {s : State} (he : rxReady (f s) = rxReady s)
    (hf : (f s).rxFault = s.rxFault) (x : Result) :
    rxByteStep (f s) (mapNext f x) = mapNext f (rxByteStep s x) := by
  simp only [rxByteStep, he, mapNext_ite, mapNext_next,
    onRxHalf_mapNext hf]

theorem timeoutStep_mapNext {f : State → State} {s : State} (he : timeoutEnabled (f s) = timeoutEnabled s)
    (hf : (f s).rxFault = s.rxFault) (x : Result) :
    timeoutStep (f s) (mapNext f x) = mapNext f (timeoutStep s x) := by
  simp only [timeoutStep, he, mapNext_ite, mapNext_next,
    onRxHalf_mapNext hf]

theorem txCmdStep_mapNext {f : State → State} {s : State} (he : cmdReady (f s) = cmdReady s)
    (hf : (f s).txFault = s.txFault) (x : Result) :
    txCmdStep (f s) (mapNext f x) = mapNext f (txCmdStep s x) := by
  simp only [txCmdStep, he, mapNext_ite, mapNext_next,
    onTxHalf_mapNext hf]

theorem txEmitStep_mapNext {f : State → State} {s : State} (he : txValid (f s) = txValid s)
    (hf : (f s).txFault = s.txFault) (x : Result) :
    txEmitStep (f s) (mapNext f x) = mapNext f (txEmitStep s x) := by
  simp only [txEmitStep, he, mapNext_ite, mapNext_next,
    onTxHalf_mapNext hf]

/-! ## The RX half, with the TX half replaced -/

/-- `s` with any other TX half. -/
def withTxHalf (r : TxRegs) (m : Memory) (f : Option Fault) (s : State) : State :=
  ((s.setTx r).setPay m).setTxFault f

section
variable (r : TxRegs) (m : Memory) (f : Option Fault) (s : State)

theorem complete_withTxHalf (b : Byte) :
    complete b (withTxHalf r m f s) = withTxHalf r m f (complete b s) := by
  rw [complete_eq, complete_eq]
  rfl

theorem store_withTxHalf (b : Byte) :
    store b (withTxHalf r m f s) = withTxHalf r m f (store b s) := by
  rw [store_eq, store_eq, apply_ite (withTxHalf r m f), apply_ite (withTxHalf r m f)]
  rfl

theorem lengthByte_withTxHalf (l : Half) (b : Byte) :
    lengthByte l b (withTxHalf r m f s) = withTxHalf r m f (lengthByte l b s) := by
  simp only [lengthByte, apply_ite (withTxHalf r m f), ← complete_withTxHalf]
  rfl

/-- An RX row whose effect does not look at the TX half runs the same with any other one. -/
theorem rxByteStep_withTxHalf {t u : State} (hu : u = withTxHalf r m f t) :
    rxByteStep (withTxHalf r m f s) (.next u) =
      mapNext (withTxHalf r m f) (rxByteStep s (.next t)) := by
  subst hu
  exact rxByteStep_mapNext (f := withTxHalf r m f) rfl rfl (.next t)

/-- The row a byte selects. -/
theorem exec_decodeRx_withTxHalf (p : Params) (st : BitVec 3) (b : Byte) :
    exec (decodeRx p (rxWord st b)) (withTxHalf r m f s) =
      mapNext (withTxHalf r m f) (exec (decodeRx p (rxWord st b)) s) := by
  have row {t u : State} := rxByteStep_withTxHalf r m f s (t := t) (u := u)
  rw [decodeRx_rxWord]
  split_ifs
  · exact row (t := startFrame s) rfl
  · exact row (t := signalBoundary ENDMARK s) rfl
  · exact row (t := raiseError .outOfFrameByte 0#16 0#16 0#16 b s) rfl
  · exact row rfl
  · exact row rfl
  · exact row (lengthByte_withTxHalf r m f s (shiftIn s.rx.len b) b)
  · exact row rfl
  · exact row rfl
  · exact row (store_withTxHalf r m f s b)
  · refine row ?_
    rw [apply_ite (withTxHalf r m f), ← store_withTxHalf]
    rfl
  · exact row rfl

/-- Every RX action runs the same with any other TX half. -/
theorem takeAction_withTxHalf {a : Action} (ha : RxHalfAction a) :
    takeAction a (withTxHalf r m f s) = mapNext (withTxHalf r m f) (takeAction a s) := by
  obtain rfl | rfl | rfl | ⟨addr, rfl⟩ := ha
  case inl =>
    by_cases hn : s.env.rxIn = [] ∨ s.evt.pending = true
    · rw [takeAction_rxByte_none hn, takeAction_rxByte_none (s := withTxHalf r m f s) hn, mapNext_next]
    · obtain ⟨hne, hp⟩ := not_or.mp hn
      obtain ⟨b, bs, hr⟩ := List.exists_cons_of_ne_nil hne
      rw [takeAction_rxByte hr (Bool.eq_false_of_not_eq_true hp),
        takeAction_rxByte (s := withTxHalf r m f s) hr (Bool.eq_false_of_not_eq_true hp)]
      exact exec_decodeRx_withTxHalf r m f (tookByte s) s.params s.rx.state b
  case inr.inl =>
    exact (mapNext_ite (withTxHalf r m f) (evtValid s = true) (.next (takeEvent s)) (.next s)).symm
  case inr.inr.inl =>
    exact timeoutStep_mapNext (f := withTxHalf r m f) (s := s) rfl rfl
      (.next (enterWfh (raiseError .incompletePacket s.rx.topic s.rx.len s.rx.count 0x00#8 s)))
  case inr.inr.inr => rfl

end

/-! ## The TX half, with the RX half replaced -/

/-- `s` with any other RX half. -/
def withRxHalf (r : RxRegs) (m : Memory) (e : EvtRegs) (f : Option Fault) (s : State) : State :=
  (((s.setRx r).setRxBuf m).setEvt e).setRxFault f

section
variable (r : RxRegs) (m : Memory) (e : EvtRegs) (f : Option Fault) (s : State)

/-- The row a command selects. -/
theorem exec_decodeTxCmd_withRxHalf (c : BitVec 33) :
    exec (decodeTxCmd c) (withRxHalf r m e f s) =
      mapNext (withRxHalf r m e f) (exec (decodeTxCmd c) s) := by
  have row := txCmdStep_mapNext (f := withRxHalf r m e f) (s := s) rfl rfl
  unfold decodeTxCmd
  split_ifs
  case pos =>
    exact row (.next (s.setTx
      { phase := TxPhase.hdr, topic := c.extractLsb' 16 16, len := c.extractLsb' 0 16,
        chk := checksum (payBytes s (c.extractLsb' 0 16).toNat), idx := 0#16, hold := 0#8 }))
  case neg =>
    have hb := mapNext_ite (withRxHalf r m e f) (s.params.endMarker = true)
      (.next (setPhase TxPhase.endmk s)) (.next s)
    exact (congrArg (txCmdStep (withRxHalf r m e f s)) hb).symm.trans (row _)

/-- An emit row whose effect does not look at the RX half runs the same with any other one. -/
theorem txEmitStep_withRxHalf {t u : State} (hu : u = withRxHalf r m e f t) :
    txEmitStep (withRxHalf r m e f s) (.next u) =
      mapNext (withRxHalf r m e f) (txEmitStep s (.next t)) := by
  subst hu
  exact txEmitStep_mapNext (f := withRxHalf r m e f) rfl rfl (.next t)

/-- R111's row. -/
theorem execTxData_withRxHalf :
    execTxData (withRxHalf r m e f s) = mapNext (withRxHalf r m e f) (execTxData s) := by
  refine txEmitStep_withRxHalf r m e f s ?_
  simp only [apply_ite (withRxHalf r m e f)]
  rfl

/-- The row a phase selects. -/
theorem exec_decodeTxEmit_withRxHalf {ph : BitVec 4} {i : Instr} (hi : decodeTxEmit ph = .ok i) :
    exec i (withRxHalf r m e f s) = mapNext (withRxHalf r m e f) (exec i s) := by
  obtain ⟨n, hn⟩ := ph
  interval_cases n
  pick_goal 9 -- DATA, the one row with a branch
  · cases hi
    exact execTxData_withRxHalf r m e f s
  · cases hi
  all_goals
    cases hi
    exact txEmitStep_withRxHalf r m e f s rfl

/-- Every TX action runs the same with any other RX half. -/
theorem takeAction_withRxHalf {a : Action} (ha : TxHalfAction a) :
    takeAction a (withRxHalf r m e f s) = mapNext (withRxHalf r m e f) (takeAction a s) := by
  obtain rfl | rfl | ⟨addr, v, rfl⟩ := ha
  case inl =>
    by_cases hn : s.env.cmdIn = [] ∨ s.tx.phase ≠ TxPhase.idle
    · rw [takeAction_txCmd_none hn, takeAction_txCmd_none (s := withRxHalf r m e f s) hn, mapNext_next]
    · obtain ⟨hne, hp⟩ := not_or.mp hn
      obtain ⟨c, cs, hc⟩ := List.exists_cons_of_ne_nil hne
      rw [takeAction_txCmd hc (not_not.mp hp),
        takeAction_txCmd (s := withRxHalf r m e f s) hc (not_not.mp hp)]
      exact exec_decodeTxCmd_withRxHalf r m e f (tookCmd s) c
  case inr.inl =>
    by_cases hp : s.tx.phase = TxPhase.idle
    · rw [takeAction_txEmit_idle hp, takeAction_txEmit_idle (s := withRxHalf r m e f s) hp, mapNext_next]
    · obtain ⟨i, hi⟩ := decodeTxEmit_ok hp
      rw [takeAction_txEmit hp hi, takeAction_txEmit (s := withRxHalf r m e f s) hp hi]
      exact exec_decodeTxEmit_withRxHalf r m e f s hi
  case inr.inr =>
    have hb := mapNext_ite (withRxHalf r m e f) (payWriteBreaks addr s = true)
      (.next ((s.setPay (Memory.write s.pay addr.toNat v)).setTxFault
        (some (s.txFault.getD .payloadChangedDuringSend))))
      (.next (s.setPay (Memory.write s.pay addr.toNat v)))
    exact hb.symm

end

/-- Settles O50: the rule of each half, with the other half replaced. -/
theorem halvesDoNotInterfere : Obligations.HalvesDoNotInterfere := by
  intro s
  exact ⟨fun _ r m f ha => takeAction_withTxHalf r m f s ha,
    fun _ r m e f ha => takeAction_withRxHalf r m e f s ha⟩

end Sys2Proof.Machine
end

section
/-! The memories and the ports (20_memory.md): who writes RXBUF and PAY, what a read of the buffer answers, and what
a pending event holds still. -/

namespace Sys2Proof.Machine

theorem Memory.read_write_of_ne {m : Memory} {a x : Nat} (h : x ≠ a) (v : Byte) :
    Memory.read (Memory.write m a v) x = Memory.read m x := by
  rw [Memory.read_write, if_neg h]

/-- Every action is one half's or the Reset. -/
theorem Action.half_or_reset (a : Action) : RxHalfAction a ∨ TxHalfAction a ∨ a = .reset := by
  cases a <;> simp [RxHalfAction, TxHalfAction]

/-! ## Steps without a transfer -/

/-- Settles O6: each action without a transfer answers its state with the choice spent. -/
theorem portsHoldWhatIsNotTaken : Obligations.PortsHoldWhatIsNotTaken := by
  intro s
  refine ⟨fun ha hn => ?rxByte, fun ha hn => ?txCmd, fun ha hp => ?txEmit, fun ha => ?waits⟩
  case rxByte => rw [step_of_nextAction ha, takeAction_rxByte_none (s := dropAction s) hn.symm]
  case txCmd => rw [step_of_nextAction ha, takeAction_txCmd_none (s := dropAction s) hn.symm]
  case txEmit => rw [step_of_nextAction ha, takeAction_txEmit_idle (s := dropAction s) hp]
  case waits => exact step_nil (List.head?_eq_none_iff.mp ha)

/-! ## The RX buffer -/

theorem payloadState_iff {st : BitVec 3} :
    payloadState st = true ↔ st = RxState.rdata ∨ st = RxState.resc := by simp [payloadState]

/-- A store writes the byte at `rx_count`, where that is a cell. -/
theorem stored_rxBuf_cases (s : State) (b : Byte) :
    (stored s b).rxBuf = s.rxBuf ∨ (s.rx.count < s.params.maxPacketSize ∧
      (stored s b).rxBuf = Memory.write s.rxBuf s.rx.count.toNat b) := by
  by_cases hi : s.rx.count < s.params.maxPacketSize
  · exact .inr ⟨hi, stored_rxBuf_of_lt hi b⟩
  · exact .inl (stored_rxBuf_of_not_lt hi b)

/-- `t` has the buffer of `s` with `b` stored at `rx_count`, where R32 lets a store write. -/
def StoredAtCount (s : State) (b : Byte) (t : State) : Prop :=
  payloadState s.rx.state = true ∧ s.rx.count < s.rx.len ∧ s.rx.count < s.params.maxPacketSize ∧
  t.rxBuf = Memory.write s.rxBuf s.rx.count.toNat b

/-- What a received byte does to the buffer. -/
theorem RxEffect.rxBuf_cases {s t : State} {b : Byte} (h : RxEffect s b t) :
    t.rxBuf = s.rxBuf ∨ StoredAtCount s b t := by
  have counted (hs : payloadState s.rx.state = true) (hlt : s.rx.count < s.rx.len) :
      (stored s b).rxBuf = s.rxBuf ∨ StoredAtCount s b (stored s b) :=
    (stored_rxBuf_cases s b).imp_right fun ⟨hmax, hw⟩ => ⟨hs, hlt, hmax, hw⟩
  cases h with
  | store hs _ hlt => exact counted hs hlt
  | finish hs hlt => exact counted hs hlt
  | _ => exact .inl rfl

/-- Only RxByte writes the buffer. -/
theorem takeAction_rxBuf {s t : State} {a : Action} (ha : a ≠ .rxByte) (h : takeAction a s = .next t) :
    t.rxBuf = s.rxBuf := by
  obtain (hr | rfl | rfl | ⟨addr, rfl⟩) | htx | rfl := a.half_or_reset
  · exact absurd hr ha
  · obtain ⟨-, rfl⟩ | ⟨-, rfl⟩ := evtAck_next h <;> rfl
  · obtain ⟨-, rfl⟩ | ⟨-, -, rfl⟩ := timeout_next h <;> rfl
  · cases h; rfl
  · obtain ⟨-, hbuf, -⟩ := takeAction_rxHalfKept htx h
    exact hbuf
  · cases h; rfl

/-- Settles O52: of the actions only RxByte, and of its effects only a store, writes the buffer. -/
theorem rxBufWrittenOnlyByStore : Obligations.RxBufWrittenOnlyByStore := by
  intro s t h
  obtain ⟨-, rfl⟩ | ⟨a, ha, h⟩ := step_next h
  · exact .inl fun _ => rfl
  by_cases hr : a = .rxByte
  case neg => exact .inl fun i => congrArg (Memory.read · i) (takeAction_rxBuf (s := dropAction s) hr h)
  case pos =>
    subst hr
    obtain ⟨-, rfl⟩ | ⟨b, bs, hb, hp, h⟩ := takeAction_rxByte_next h
    · exact .inl fun _ => rfl
    obtain hk | ⟨hs, hlt, hmax, hw⟩ := (rxRow_next (s := tookByte (dropAction s)) hp h).2.rxBuf_cases
    · exact .inl fun i => congrArg (Memory.read · i) hk
    · refine .inr ⟨ha, hp, payloadState_iff.mp hs, hlt, hmax, b,
        List.head?_eq_some_iff.mpr ⟨bs, hb⟩, ?_, fun i hi => ?_⟩
      · rw [hw]
        exact Memory.read_write_self _ _ b
      · rw [hw]
        exact Memory.read_write_of_ne hi b

/-- Where no cell exists at `rx_count`, a store counts the byte and writes nothing (log 9). -/
theorem stored_of_not_lt {s : State} (h : ¬ s.rx.count < s.params.maxPacketSize) (b : Byte) :
    stored s b = s.setRx { s.rx with state := RxState.rdata, count := s.rx.count + 1#16 } := by
  rw [stored, rxWrite_of_not_lt h]

/-- R88 on a ready RX half. -/
theorem exec_rxRdataByte {s : State} (hf : s.rxFault = none) (hp : s.evt.pending = false) (b : Byte) :
    exec (.rxRdataByte b) s = .next (store b s) := rxByteStep_ready hf hp _

/-- R89 without a strict reject is R88: the escaped byte is stored as it is. -/
theorem exec_rxResc_literal {s : State} {b : Byte}
    (h : s.params.strictEscape = false ∨ isReserved s.params.endMarker b = true) :
    exec (.rxResc b) s = exec (.rxRdataByte b) s := by
  have hc : ¬ (s.params.strictEscape && !isReserved s.params.endMarker b) = true := by
    rcases h with h | h <;> simp [h]
  exact congrArg (fun t => rxByteStep s (.next t)) (if_neg hc)

/-- Settles O17: `store` past the guard, with nothing written. -/
theorem rxStoreOutsideBufferWritesNothing : Obligations.RxStoreOutsideBufferWritesNothing := by
  intro s b hf hp hlt hmax
  have hguard : ¬ s.rx.len ≤ s.rx.count := BitVec.not_le.mpr hlt
  have hcell : ¬ s.rx.count < s.params.maxPacketSize := BitVec.not_lt.mpr hmax
  have hstore := exec_rxRdataByte hf hp b
  rw [store_eq, if_neg hguard, stored_of_not_lt hcell] at hstore
  refine ⟨fun hmore => ?more, fun hlast => ?last, exec_rxResc_literal⟩
  case more => rw [hstore, if_neg hmore]; rfl
  case last => rw [hstore, if_pos hlast]; rfl

/-! ## BufRead -/

theorem bufRdata_of_lt {s : State} {a : Half} (h : a < s.params.maxPacketSize) :
    bufRdata s a = rxCell s a.toNat := if_pos h

theorem bufRdata_of_le {s : State} {a : Half} (h : s.params.maxPacketSize ≤ a) : bufRdata s a = 0x00#8 :=
  if_neg (BitVec.not_lt.mpr h)

theorem rxCell_of_read {s : State} {i : Nat} {v : Byte} (h : Memory.read s.rxBuf i = some v) :
    rxCell s i = v := by rw [rxCell, h, Option.getD_some]

/-- R31: the environment has the port's answer, and nothing else changes. -/
theorem exec_bufRead (a : Half) (s : State) : exec (.bufRead a) s =
    .next { s with obs := { s.obs with bufRead := some (a, bufRdata s a) } } := rfl

/-- Settles O35: the answer by the two ranges of `buf_raddr`. -/
theorem bufReadAnswersCell : Obligations.BufReadAnswersCell := by
  refine ⟨fun _ => rfl, fun s a => ⟨fun h v hv => ?_, fun h => ?_, fun h => ?_⟩⟩
  · rw [exec_bufRead, bufRdata_of_lt h, rxCell_of_read hv]
  · rw [exec_bufRead, bufRdata_of_lt h]
  · rw [exec_bufRead, bufRdata_of_le h]

/-! ## PAY -/

theorem TxEffect.pay {s t : State} (h : TxEffect s t) : t.pay = s.pay := by
  cases h <;> rfl

theorem CmdEffect.pay {s t : State} {c : BitVec 33} (h : CmdEffect s c t) : t.pay = s.pay := by
  cases h <;> rfl

/-- PayWrite writes PAY, whether or not it breaks the stability duty. -/
theorem payWrite_pay {s t : State} {a : Half} {v : Byte} (h : execPayWrite a v s = .next t) :
    t.pay = Memory.write s.pay a.toNat v := by
  obtain ⟨-, rfl⟩ | ⟨-, rfl⟩ := payWrite_next h <;> rfl

/-- Only PayWrite writes PAY. -/
theorem takeAction_pay {s t : State} {a : Action} (ha : ∀ addr v, a ≠ .payWrite addr v)
    (h : takeAction a s = .next t) : t.pay = s.pay := by
  obtain hrx | (rfl | rfl | ⟨addr, v, rfl⟩) | rfl := a.half_or_reset
  · obtain ⟨-, -, hpay, -⟩ := takeAction_txHalfKept hrx h
    exact hpay
  · obtain ⟨-, rfl⟩ | ⟨c, cs, -, hp, h⟩ := takeAction_txCmd_next h
    · rfl
    · exact (cmdRow_next (s := tookCmd s) hp h).2.pay
  · obtain ⟨-, rfl⟩ | ⟨i, hp, hi, h⟩ := takeAction_txEmit_next h
    · rfl
    · exact (txRow_next hp hi h).2.pay
  · exact absurd rfl (ha addr v)
  · cases h; rfl

/-- Settles O53: a step is a PayWrite, or keeps PAY. -/
theorem payWrittenOnlyByPayWrite : Obligations.PayWrittenOnlyByPayWrite := by
  intro s t h
  obtain ⟨-, rfl⟩ | ⟨a, ha, h⟩ := step_next h
  · exact .inl fun _ => rfl
  by_cases hw : ∃ addr v, a = .payWrite addr v
  · obtain ⟨addr, v, rfl⟩ := hw
    have hpay := payWrite_pay h
    refine .inr ⟨addr, v, ha, ?_, fun i hi => ?_⟩
    · rw [hpay, Memory.read_write_self]
    · rw [hpay, Memory.read_write_of_ne hi, dropAction_pay]
  · push Not at hw
    exact .inl fun i => congrArg (Memory.read · i) (takeAction_pay (s := dropAction s) hw h)

theorem payWriteBreaks_iff {a : Half} {s : State} :
    payWriteBreaks a s = true ↔ s.tx.phase ≠ TxPhase.idle ∧ a < s.tx.len := by
  simp [payWriteBreaks, txValid]

/-- Settles O36: the memory law of the write, and the duty's test by its two parts. -/
theorem payWriteStoresByteAndGuardsSend : Obligations.PayWriteStoresByteAndGuardsSend := by
  rintro s a v m rfl
  refine ⟨Memory.read_write_self _ _ v, fun i hi => Memory.read_write_of_ne hi v, fun hk => ?kept,
    fun hphase hlt hf => ?broken⟩
  case kept =>
    have hb : ¬ payWriteBreaks a s = true := by
      rw [payWriteBreaks_iff]
      rintro ⟨hphase, hlt⟩
      exact hk.elim hphase fun hle => BitVec.not_lt.mpr hle hlt
    exact if_neg hb
  case broken =>
    rw [execPayWrite, if_pos (payWriteBreaks_iff.mpr ⟨hphase, hlt⟩), hf]
    rfl

/-! ## A pending event -/

/-- While an event is pending, only EvtAck and Reset touch it, the parser, the buffer or the RX port. -/
theorem takeAction_pending {s t : State} {a : Action} (hp : s.evt.pending = true) (hack : a ≠ .evtAck)
    (hreset : a ≠ .reset) (h : takeAction a s = .next t) :
    t.rx = s.rx ∧ t.rxBuf = s.rxBuf ∧ t.env.rxIn = s.env.rxIn ∧ t.evt = s.evt ∧
      t.obs.events = s.obs.events := by
  obtain (rfl | ha | rfl | ⟨addr, rfl⟩) | htx | ha := a.half_or_reset
  · rw [takeAction_rxByte_none (.inr hp)] at h
    cases h
    exact ⟨rfl, rfl, rfl, rfl, rfl⟩
  · exact absurd ha hack
  · have hd : timeoutEnabled s = false := by simp [timeoutEnabled, hp]
    rw [takeAction_timeout] at h
    cases (timeoutStep_disabled hd _).symm.trans h
    exact ⟨rfl, rfl, rfl, rfl, rfl⟩
  · cases h
    exact ⟨rfl, rfl, rfl, rfl, rfl⟩
  · obtain ⟨hrx, hbuf, hevt, -, hevents, -, hin⟩ := takeAction_rxHalfKept htx h
    exact ⟨hrx, hbuf, hin, hevt, hevents⟩
  · exact absurd ha hreset

/-- An acknowledge of a pending event takes it (R142). -/
theorem exec_evtAck_of_pending {s : State} (hp : s.evt.pending = true) :
    exec .evtAck s = .next (takeEvent s) := if_pos hp

/-- Settles O51: the acknowledge takes the event, and every other action holds it. -/
theorem pendingEventIsStable : Obligations.PendingEventIsStable := by
  intro s t hp h hreset
  obtain ⟨hs, rfl⟩ | ⟨a, ha, h⟩ := step_next h
  · have hnone : nextAction t ≠ some .evtAck := by simp [nextAction, hs]
    exact ⟨rfl, rfl, rfl, fun _ => ⟨rfl, rfl⟩, fun hack => absurd hack hnone⟩
  simp only [ha, ne_eq, Option.some.injEq] at hreset ⊢
  by_cases hack : a = .evtAck
  · subst hack
    rw [takeAction_evtAck, exec_evtAck_of_pending (s := dropAction s) hp] at h
    cases h
    exact ⟨rfl, rfl, rfl, absurd rfl, fun _ => ⟨rfl, rfl⟩⟩
  · obtain ⟨hrx, hbuf, hin, hevt, hevents⟩ := takeAction_pending (s := dropAction s) hp hack hreset h
    exact ⟨hrx, hbuf, hin, fun _ => ⟨hevt, hevents⟩, fun h => absurd h hack⟩

end Sys2Proof.Machine
end

section
/-! The encodings (30_encoding.md): the decoder and the encoder undo each other, and the rx decoder reads the table
of R51. -/

namespace Sys2Proof

/-! ## The rx space: the rows of R51 as a relation between words and instructions -/

theorem wfOutOfFrameByte_iff {p : Params} {b : Byte} :
    wfOutOfFrameByte p b = true ↔ b ≠ HEADER ∧ ¬ (p.endMarker && b == ENDMARK) = true := by
  rw [wfOutOfFrameByte, Bool.and_eq_true, bne_iff_ne, Bool.not_eq_true', Bool.not_eq_true]

theorem wfPayloadByte_iff {b : Byte} : wfPayloadByte b = true ↔ b ≠ ESCAPE ∧ b ≠ HEADER := by
  simp [wfPayloadByte]

/-- The rows of R51: the words of each, under its condition, and the instruction it chooses. -/
inductive RxDecoded (p : Params) : BitVec 11 → Instr → Prop where
  | wfhHdr : RxDecoded p (rxWord RxState.wfh HEADER) .rxWfhHdr
  | wfhEnd : p.endMarker = true → RxDecoded p (rxWord RxState.wfh ENDMARK) .rxWfhEnd
  | wfhOof (b : Byte) : wfOutOfFrameByte p b = true → RxDecoded p (rxWord RxState.wfh b) (.rxWfhOof b)
  | rck (b : Byte) : RxDecoded p (rxWord RxState.rck b) (.rxRck b)
  | rtid (b : Byte) : RxDecoded p (rxWord RxState.rtid b) (.rxRtid b)
  | rlen (b : Byte) : RxDecoded p (rxWord RxState.rlen b) (.rxRlen b)
  | rdataEsc : RxDecoded p (rxWord RxState.rdata ESCAPE) .rxRdataEsc
  | rdataHdr : RxDecoded p (rxWord RxState.rdata HEADER) .rxRdataHdr
  | rdataByte (b : Byte) : wfPayloadByte b = true → RxDecoded p (rxWord RxState.rdata b) (.rxRdataByte b)
  | resc (b : Byte) : RxDecoded p (rxWord RxState.resc b) (.rxResc b)
  | rsvd (lo : BitVec 1) (b : Byte) : RxDecoded p (rxWord (0b11#2 ++ lo) b) (.rxRsvd lo b)

/-- A parser state is one of R50's six, or one of the two reserved ones. -/
theorem rxState_cases (st : BitVec 3) :
    st = RxState.wfh ∨ st = RxState.rck ∨ st = RxState.rtid ∨ st = RxState.rlen ∨ st = RxState.rdata ∨
      st = RxState.resc ∨ ∃ lo : BitVec 1, st = 0b11#2 ++ lo := by
  revert st
  decide

theorem decodeRx_rsvd (p : Params) (lo : BitVec 1) (b : Byte) :
    decodeRx p (rxWord (0b11#2 ++ lo) b) = .rxRsvd lo b := by
  rw [decodeRx_rxWord]
  obtain rfl | rfl := BitVec.eq_zero_or_eq_one lo <;> rfl

/-- The decoder on each row of R51. -/
theorem RxDecoded.decodeRx_eq {p : Params} {w : BitVec 11} {i : Instr} (h : RxDecoded p w i) :
    decodeRx p w = i := by
  cases h with
  | wfhHdr => rw [decodeRx_wfh, if_pos rfl]
  | wfhEnd he => rw [decodeRx_wfh, if_neg (by decide), if_pos (by simp [he])]
  | wfhOof b hwf =>
    obtain ⟨hh, he⟩ := wfOutOfFrameByte_iff.mp hwf
    rw [decodeRx_wfh, if_neg hh, if_neg he]
  | rck b => exact decodeRx_rck p b
  | rtid b => exact decodeRx_rtid p b
  | rlen b => exact decodeRx_rlen p b
  | rdataEsc => rw [decodeRx_rdata, if_pos rfl]
  | rdataHdr => rw [decodeRx_rdata, if_neg (by decide), if_pos rfl]
  | rdataByte b hwf =>
    obtain ⟨hesc, hh⟩ := wfPayloadByte_iff.mp hwf
    rw [decodeRx_rdata, if_neg hesc, if_neg hh]
  | resc b => exact decodeRx_resc p b
  | rsvd lo b => exact decodeRx_rsvd p lo b

/-- The rows cover every word. -/
theorem RxDecoded.exists (p : Params) (w : BitVec 11) : ∃ i, RxDecoded p w i := by
  rw [← rxWord_eta w]
  generalize rxWordByte w = b
  obtain e | e | e | e | e | e | ⟨lo, e⟩ := rxState_cases (rxWordState w) <;> rw [e]
  · by_cases hh : b = HEADER
    · subst hh
      exact ⟨_, .wfhHdr⟩
    by_cases he : (p.endMarker && b == ENDMARK) = true
    · obtain ⟨hm, rfl⟩ : p.endMarker = true ∧ b = ENDMARK := by simpa using he
      exact ⟨_, .wfhEnd hm⟩
    · exact ⟨_, .wfhOof b (wfOutOfFrameByte_iff.mpr ⟨hh, he⟩)⟩
  · exact ⟨_, .rck b⟩
  · exact ⟨_, .rtid b⟩
  · exact ⟨_, .rlen b⟩
  · by_cases hesc : b = ESCAPE
    · subst hesc
      exact ⟨_, .rdataEsc⟩
    by_cases hh : b = HEADER
    · subst hh
      exact ⟨_, .rdataHdr⟩
    · exact ⟨_, .rdataByte b (wfPayloadByte_iff.mpr ⟨hesc, hh⟩)⟩
  · exact ⟨_, .resc b⟩
  · exact ⟨_, .rsvd lo b⟩

theorem rxDecoded_decodeRx (p : Params) (w : BitVec 11) : RxDecoded p w (decodeRx p w) := by
  obtain ⟨i, h⟩ := RxDecoded.exists p w
  rwa [h.decodeRx_eq]

/-- A row's instruction is well-formed and its encoding is the word. -/
theorem RxDecoded.encode_eq {p : Params} {w : BitVec 11} {i : Instr} (h : RxDecoded p w i) :
    i.wellFormed p = true ∧ encode i = .rx w := by
  cases h with
  | wfhEnd he => exact ⟨he, rfl⟩
  | wfhOof b hwf => exact ⟨hwf, rfl⟩
  | rdataByte b hwf => exact ⟨hwf, rfl⟩
  | _ => exact ⟨rfl, rfl⟩

/-! ## The tx_emit space -/

theorem decodeTxEmit_rsvdC (lo : BitVec 2) : decodeTxEmit (0b11#2 ++ lo) = .ok (.txRsvdC lo) := by
  revert lo
  decide

/-- A phase is IDLE, one of the four that share TX_RSVD's second row, or one with a row of its own. -/
theorem txPhase_cases (e : BitVec 4) :
    e = TxPhase.idle ∨ (∃ lo : BitVec 2, e = 0b11#2 ++ lo) ∨ e = TxPhase.hdr ∨ e = TxPhase.chkHi ∨
      e = TxPhase.chkLo ∨ e = TxPhase.tidHi ∨ e = TxPhase.tidLo ∨ e = TxPhase.lenHi ∨ e = TxPhase.lenLo ∨
      e = TxPhase.data ∨ e = TxPhase.dataEsc ∨ e = TxPhase.endmk ∨ e = 11#4 := by
  revert e
  decide

/-- Each row of R54 is well-formed and encodes back to its phase. -/
theorem encode_of_decodeTxEmit {e : BitVec 4} {i : Instr} (h : decodeTxEmit e = .ok i) (p : Params) :
    i.wellFormed p = true ∧ encode i = .txEmit e := by
  obtain rfl | ⟨lo, rfl⟩ | rfl | rfl | rfl | rfl | rfl | rfl | rfl | rfl | rfl | rfl | rfl :=
    txPhase_cases e
  · cases h
  · cases (decodeTxEmit_rsvdC lo).symm.trans h
    exact ⟨rfl, rfl⟩
  all_goals
    cases h
    exact ⟨rfl, rfl⟩

/-! ## The tx_cmd space -/

theorem txCmdWord_eta (c : BitVec 33) :
    txCmdWord (c.extractLsb' 32 1) (c.extractLsb' 16 16) (c.extractLsb' 0 16) = c := by
  have fields : c.extractLsb' 16 16 ++ c.extractLsb' 0 16 = c.extractLsb' 0 32 := by
    rw [← extract_extract c 0 32 16 16 (by omega), ← extract_extract c 0 32 0 16 (by omega)]
    exact append_extract (n := 16) (m := 16) _
  rw [txCmdWord, fields]
  exact append_extract (n := 1) (m := 32) c

theorem decodeTxCmd_of_op_one {c : BitVec 33} (h : c.extractLsb' 32 1 = 1#1) : decodeTxCmd c = .sendEnd :=
  if_neg (by rw [h]; decide)

theorem decodeTxCmd_wellFormed (p : Params) (c : BitVec 33) : (decodeTxCmd c).wellFormed p = true := by
  unfold decodeTxCmd
  split_ifs <;> rfl

theorem encode_decodeTxCmd_of_op_zero {c : BitVec 33} (h : c.extractLsb' 32 1 = 0#1) :
    encode (decodeTxCmd c) = .txCmd c := by
  rw [decodeTxCmd, if_pos h, encode, ← h, txCmdWord_eta]

/-! ## The ctl space -/

theorem encode_decodeCtl (p : Params) (k : BitVec 2) (a : Half) : (decodeCtl k a).wellFormed p = true ∧
    ∃ a', encode (decodeCtl k a) = .ctl k a' ∧ (k = 3#2 → a' = a) := by
  obtain rfl | rfl | rfl | rfl : k = 3#2 ∨ k = 0#2 ∨ k = 1#2 ∨ k = 2#2 := by bv_omega
  · exact ⟨rfl, a, rfl, fun _ => rfl⟩
  all_goals exact ⟨rfl, 0#16, rfl, fun h => absurd h (by decide)⟩

/-! ## The table of R51 as data -/

/-- A row matches a word field by field. -/
theorem RxRow.applies_rxWord (p : Params) (st ps ms : BitVec 3) (b pb mb : Byte) (e : Bool) :
    RxRow.applies p (rxWord st b) ⟨rxWord ps pb, rxWord ms mb, e⟩ =
      (decide (st &&& ms = ps ∧ b &&& mb = pb) && (!e || p.endMarker)) := by
  have fields : rxWord (st &&& ms) (b &&& mb) = rxWord ps pb ↔ st &&& ms = ps ∧ b &&& mb = pb :=
    ⟨fun h => ⟨by simpa using congrArg rxWordState h, by simpa using congrArg rxWordByte h⟩,
      fun ⟨hs, hb⟩ => by rw [hs, hb]⟩
  have hmask : rxWord st b &&& rxWord ms mb = rxWord (st &&& ms) (b &&& mb) := BitVec.and_append
  simp only [RxRow.applies, hmask, beq_eq_decide, fields]

/-- A row that fixes the whole word. -/
theorem RxRow.applies_word (p : Params) (st ps : BitVec 3) (b pb : Byte) (e : Bool) :
    RxRow.applies p (rxWord st b) ⟨rxWord ps pb, 0x7FF#11, e⟩ =
      (decide (st = ps ∧ b = pb) && (!e || p.endMarker)) := by
  have h := applies_rxWord p st ps 7#3 b pb 0xFF#8 e
  rwa [show st &&& 7#3 = st from BitVec.and_allOnes, show b &&& 0xFF#8 = b from BitVec.and_allOnes] at h

/-- A row that fixes bits of the state alone. -/
theorem RxRow.applies_state (p : Params) (st ps ms : BitVec 3) (b : Byte) :
    RxRow.applies p (rxWord st b) ⟨rxWord ps 0#8, rxWord ms 0#8, false⟩ = decide (st &&& ms = ps) := by
  simp [applies_rxWord]

/-- The table of R51 with its patterns and masks cut into state and byte. -/
theorem rxTable_eq : rxTable =
    [⟨rxWord RxState.wfh HEADER, 0x7FF#11, false⟩, ⟨rxWord RxState.wfh ENDMARK, 0x7FF#11, true⟩,
     ⟨rxWord RxState.wfh 0#8, rxWord 7#3 0#8, false⟩, ⟨rxWord RxState.rck 0#8, rxWord 7#3 0#8, false⟩,
     ⟨rxWord RxState.rtid 0#8, rxWord 7#3 0#8, false⟩, ⟨rxWord RxState.rlen 0#8, rxWord 7#3 0#8, false⟩,
     ⟨rxWord RxState.rdata ESCAPE, 0x7FF#11, false⟩, ⟨rxWord RxState.rdata HEADER, 0x7FF#11, false⟩,
     ⟨rxWord RxState.rdata 0#8, rxWord 7#3 0#8, false⟩, ⟨rxWord RxState.resc 0#8, rxWord 7#3 0#8, false⟩,
     ⟨rxWord 6#3 0#8, rxWord 6#3 0#8, false⟩] := rfl

/-- The first row of R51 that matches a word, from its state and its byte. -/
theorem rxTable_findIdx_rxWord (p : Params) (st : BitVec 3) (b : Byte) :
    rxTable.findIdx? (RxRow.applies p (rxWord st b)) =
      if st = RxState.wfh ∧ b = HEADER then some 0
      else if st = RxState.wfh ∧ b = ENDMARK ∧ p.endMarker = true then some 1
      else if st = RxState.wfh then some 2
      else if st = RxState.rck then some 3
      else if st = RxState.rtid then some 4
      else if st = RxState.rlen then some 5
      else if st = RxState.rdata ∧ b = ESCAPE then some 6
      else if st = RxState.rdata ∧ b = HEADER then some 7
      else if st = RxState.rdata then some 8
      else if st = RxState.resc then some 9
      else if st &&& 6#3 = 6#3 then some 10
      else none := by
  have all : st &&& 7#3 = st := BitVec.and_allOnes
  rw [rxTable_eq]
  simp [List.findIdx?_cons, RxRow.applies_word, RxRow.applies_state, all, apply_ite (Option.map _),
    and_assoc]

/-- A row's instruction names the first row of the table that matches the word. -/
theorem RxDecoded.findIdx_rxTable {p : Params} {w : BitVec 11} {i : Instr} (h : RxDecoded p w i) :
    rxTable.findIdx? (RxRow.applies p w) = some (i.tableRow.order - 1) := by
  cases h with
  | wfhOof b hwf =>
    obtain ⟨hh, he⟩ := wfOutOfFrameByte_iff.mp hwf
    rw [rxTable_findIdx_rxWord, if_neg (by simpa using hh), if_neg (by simpa [and_comm] using he)]
    rfl
  | rdataByte b hwf =>
    obtain ⟨hesc, hh⟩ := wfPayloadByte_iff.mp hwf
    rw [rxTable_findIdx_rxWord]
    simp +decide [hesc, hh, Instr.tableRow]
  | rsvd lo b =>
    rw [rxTable_findIdx_rxWord]
    obtain rfl | rfl := BitVec.eq_zero_or_eq_one lo <;> rfl
  | wfhEnd he => rw [rxTable_findIdx_rxWord, he]; rfl
  | _ => rw [rxTable_findIdx_rxWord]; rfl

/-! ## The statements -/

/-- Settles O2: an rx instruction's word lies in its row of R51, and the other spaces' words decode by their
fields. -/
theorem decodeOfEncodeIsIdentity : Obligations.DecodeOfEncodeIsIdentity := by
  intro p i hwf
  have rx {w : BitVec 11} (h : RxDecoded p w i) : decode p (.rx w) = .ok i := by
    rw [decode, h.decodeRx_eq]
  cases i with
  | rxWfhHdr => exact rx .wfhHdr
  | rxWfhEnd => exact rx (.wfhEnd hwf)
  | rxWfhOof b => exact rx (.wfhOof b hwf)
  | rxRck b => exact rx (.rck b)
  | rxRtid b => exact rx (.rtid b)
  | rxRlen b => exact rx (.rlen b)
  | rxRdataEsc => exact rx .rdataEsc
  | rxRdataHdr => exact rx .rdataHdr
  | rxRdataByte b => exact rx (.rdataByte b hwf)
  | rxResc b => exact rx (.resc b)
  | rxRsvd lo b => exact rx (.rsvd lo b)
  | sendFrame topic len => rw [encode, decode, decodeTxCmd_frame]
  | sendEnd => rw [encode, decode, decodeTxCmd_end]
  | txRsvdC lo => exact decodeTxEmit_rsvdC lo
  | _ => rfl

/-- Settles O3: the decoder's row is a row of R51, and that is the first that matches. -/
theorem rxDecodeIsFirstMatchingRow : Obligations.RxDecodeIsFirstMatchingRow :=
  fun p w => (rxDecoded_decodeRx p w).findIdx_rxTable

/-- Settles O4, space by space. -/
theorem encodeOfDecodedWord : Obligations.EncodeOfDecodedWord := fun p =>
  ⟨fun w => (rxDecoded_decodeRx p w).encode_eq,
    fun c => ⟨decodeTxCmd_wellFormed p c, encode_decodeTxCmd_of_op_zero, decodeTxCmd_of_op_one⟩,
    fun _ _ h => encode_of_decodeTxEmit h p, encode_decodeCtl p⟩

/-- Settles O1: each word evaluates. -/
theorem decodeOfSpecWords : Obligations.DecodeOfSpecWords := by
  unfold Obligations.DecodeOfSpecWords
  decide

end Sys2Proof
end

section
/-! The invariant (30_encoding.md R58): what each action does to the registers it may write keeps it. -/

namespace Sys2Proof.Machine

/-! ## Memories in canonical form, and their written cells -/

/-- Canonical form with every address below `n`. -/
def Canonical (m : Memory) (n : Nat) : Prop := Memory.wf m = true ∧ ∀ c ∈ m, c.1 < n

theorem Canonical.write {m : Memory} {n a : Nat} (h : Canonical m n) (ha : a < n) (v : Byte) :
    Canonical (Memory.write m a v) n := by
  refine ⟨Memory.wf_write h.1 a v, fun c hc => ?_⟩
  obtain rfl | hc := Memory.mem_write hc
  · exact ha
  · exact h.2 c hc

theorem memInv_iff {s : State} :
    MemInv s ↔ Canonical s.rxBuf s.params.maxPacketSize.toNat ∧ Canonical s.pay 65536 :=
  ⟨fun h => ⟨⟨h.rxBuf_wf, h.rxBuf_range⟩, h.pay_wf, h.pay_range⟩,
    fun ⟨hb, hp⟩ => ⟨hb.1, hp.1, hb.2, hp.2⟩⟩

/-- The first `n` cells have been written. -/
def Written (m : Memory) (n : Nat) : Prop := ∀ i, i < n → (Memory.read m i).isSome = true

theorem written_zero (m : Memory) : Written m 0 := fun _ hi => absurd hi (Nat.not_lt_zero _)

theorem Written.write {m : Memory} {n : Nat} (h : Written m n) (a : Nat) (v : Byte) :
    Written (Memory.write m a v) n := by
  intro i hi
  rw [Memory.read_write]
  split_ifs
  · rfl
  · exact h i hi

/-- Writing the next cell writes one cell more. -/
theorem Written.write_succ {m : Memory} {n : Nat} (h : Written m n) (v : Byte) :
    Written (Memory.write m n v) (n + 1) := by
  intro i hi
  obtain hlt | rfl := Nat.lt_succ_iff_lt_or_eq.mp hi
  · exact h.write n v i hlt
  · rw [Memory.read_write_self]
    rfl

/-! ## The memories' part -/

/-- The buffer stays canonical and in range: a store writes only where there is a cell (20_memory.md R32). -/
theorem takeAction_rxBuf_canonical {s t : State} {a : Action}
    (hb : Canonical s.rxBuf s.params.maxPacketSize.toNat) (h : takeAction a s = .next t) :
    Canonical t.rxBuf s.params.maxPacketSize.toNat := by
  by_cases hr : a = .rxByte
  case neg => rwa [takeAction_rxBuf hr h]
  case pos =>
    subst hr
    obtain ⟨-, rfl⟩ | ⟨b, bs, -, hp, h⟩ := takeAction_rxByte_next h
    · exact hb
    obtain hk | ⟨-, -, hmax, hw⟩ := (rxRow_next (s := tookByte s) hp h).2.rxBuf_cases
    · rw [hk]
      exact hb
    · rw [hw]
      exact hb.write (BitVec.lt_def.mp hmax) b

theorem takeAction_pay_canonical {s t : State} {a : Action} (hp : Canonical s.pay 65536)
    (h : takeAction a s = .next t) : Canonical t.pay 65536 := by
  by_cases hw : ∃ addr v, a = .payWrite addr v
  · obtain ⟨addr, v, rfl⟩ := hw
    rw [payWrite_pay h]
    exact hp.write addr.isLt v
  · push Not at hw
    rwa [takeAction_pay hw h]

theorem takeAction_memInv {s t : State} {a : Action} (hm : MemInv s) (h : takeAction a s = .next t) :
    MemInv t := by
  obtain ⟨hb, hp⟩ := memInv_iff.mp hm
  refine memInv_iff.mpr ⟨?_, takeAction_pay_canonical hp h⟩
  rw [(takeAction_sameBlock h).1]
  exact takeAction_rxBuf_canonical hb h

/-! ## The parser's part -/

/-- The parser's part speaks of its registers, its fault record, the buffer and the parameters. -/
theorem RxInv.congr {s t : State} (h : RxInv s) (hp : t.params = s.params) (hr : t.rx = s.rx)
    (hb : t.rxBuf = s.rxBuf) (hf : t.rxFault = s.rxFault) : RxInv t := by
  constructor <;> simp only [hp, hr, hb, hf]
  exacts [h.state_legal, h.idx_zero, h.wfh_clear, h.header_count, h.chk_from_zero, h.topic_from_zero,
    h.len_from_zero, h.payload_bound, h.written, h.no_fault]

/-- The parser in WFH. -/
theorem rxInv_of_reset {t : State} (hr : t.rx = RxRegs.reset) (hf : t.rxFault = none) : RxInv t := by
  constructor <;> simp +decide [hr, hf, RxRegs.reset]

/-- The registers in a header state: the bytes of its own field so far, and nothing of a later field (R48). -/
inductive HeaderRegs (r : RxRegs) : Prop where
  | rck : r.state = RxState.rck → (r.idx = 0#1 → r.chk = 0#16) → r.topic = 0#16 → r.len = 0#16 →
      r.count = 0#16 → HeaderRegs r
  | rtid : r.state = RxState.rtid → (r.idx = 0#1 → r.topic = 0#16) → r.len = 0#16 → r.count = 0#16 →
      HeaderRegs r
  | rlen : r.state = RxState.rlen → (r.idx = 0#1 → r.len = 0#16) → r.count = 0#16 → HeaderRegs r

theorem rxInv_of_header {t : State} (h : HeaderRegs t.rx) (hf : t.rxFault = none) : RxInv t := by
  cases h with
  | rck e hchk ht hl hc =>
    constructor <;> simp +decide +contextual [e, ht, hl, hc, hf, hchk]
  | rtid e ht hl hc =>
    constructor <;> simp +decide +contextual [e, hl, hc, hf, ht]
  | rlen e hl hc =>
    constructor <;> simp +decide +contextual [e, hc, hf, hl]

/-- The parser in a payload state (10_state.md R23). -/
theorem rxInv_of_payload {t : State} (hs : payloadState t.rx.state = true) (hi : t.rx.idx = 0#1)
    (hlt : t.rx.count < t.rx.len) (hmax : t.rx.len ≤ t.params.maxPacketSize)
    (hw : Written t.rxBuf t.rx.count.toNat) (hf : t.rxFault = none) : RxInv t := by
  obtain e | e := payloadState_iff.mp hs
  all_goals
    constructor
    case written => exact hw
    all_goals simp +decide [e, hi, hlt, hmax, hf]

/-- A header byte leaves header registers. -/
theorem HeaderStep.headerRegs {s : State} {b : Byte} {r : RxRegs} (h : HeaderStep s.rx b r)
    (hinv : RxInv s) : HeaderRegs r := by
  have hcount {st : BitVec 3} (e : s.rx.state = st) (hst : headerState st = true) : s.rx.count = 0#16 :=
    hinv.header_count (e ▸ hst)
  have second {x : Half} (h : 1#1 = 0#1) : x = 0#16 := absurd h (by decide)
  cases h with
  | chkFirst e =>
    obtain ⟨-, ht, hl⟩ := hinv.chk_from_zero e
    exact .rck e second ht hl (hcount e rfl)
  | chkSecond e =>
    obtain ⟨-, ht, hl⟩ := hinv.chk_from_zero e
    exact .rtid rfl (fun _ => ht) hl (hcount e rfl)
  | topicFirst e =>
    obtain ⟨-, hl⟩ := hinv.topic_from_zero e
    exact .rtid e second hl (hcount e rfl)
  | topicSecond e =>
    obtain ⟨-, hl⟩ := hinv.topic_from_zero e
    exact .rlen rfl (fun _ => hl) (hcount e rfl)
  | lenFirst e => exact .rlen e second (hcount e rfl)

theorem parserState_cases {st : BitVec 3} (h : st ≤ RxState.resc) :
    st = RxState.wfh ∨ headerState st = true ∨ payloadState st = true := by
  revert st
  decide

/-- In every state the frame's bytes so far fit in the buffer. -/
theorem RxInv.count_le {s : State} (h : RxInv s) : s.rx.count ≤ s.params.maxPacketSize := by
  obtain e | e | e := parserState_cases h.state_legal
  · obtain ⟨-, -, -, hc⟩ := h.wfh_clear e
    rw [hc]
    bv_omega
  · rw [h.header_count e]
    bv_omega
  · obtain ⟨hlt, hmax⟩ := h.payload_bound e
    exact BitVec.le_trans (BitVec.le_of_lt hlt) hmax

theorem RxInv.payload_idx {s : State} (h : RxInv s) (hs : payloadState s.rx.state = true) :
    s.rx.idx = 0#1 := by
  refine h.idx_zero ?_
  obtain e | e := payloadState_iff.mp hs <;> rw [e] <;> rfl

/-- `store` writes the byte that is counted next. -/
theorem written_stored {s : State} {b : Byte} (h : RxInv s) (hs : payloadState s.rx.state = true) :
    Written (stored s b).rxBuf (s.rx.count + 1#16).toNat := by
  obtain ⟨hlt, hmax⟩ := h.payload_bound hs
  have hcell : s.rx.count < s.params.maxPacketSize := by bv_omega
  have hsucc : (s.rx.count + 1#16).toNat = s.rx.count.toNat + 1 := by bv_omega
  rw [stored_rxBuf_of_lt hcell, hsucc]
  exact Written.write_succ h.written b

/-- A received byte keeps the parser's part. -/
theorem RxEffect.rxInv {s t : State} {b : Byte} (h : RxEffect s b t) (hinv : RxInv s) : RxInv t := by
  have hf := hinv.no_fault
  cases h with
  | start | resync => exact rxInv_of_header (.rck rfl (fun _ => rfl) rfl rfl rfl) hf
  | boundary | outOfFrame => exact hinv.congr rfl rfl rfl rfl
  | header r hr => exact rxInv_of_header (hr.headerRegs hinv) hf
  | tooLong | empty | strict | guard | finish => exact rxInv_of_reset rfl hf
  | payload e _ hne hle =>
    have hc : s.rx.count = 0#16 := hinv.header_count (by rw [e]; rfl)
    refine rxInv_of_payload rfl rfl ?_ hle hinv.written hf
    show s.rx.count < shiftIn s.rx.len b
    bv_omega
  | escape e =>
    have hs : payloadState s.rx.state = true := by rw [e]; rfl
    have hi := hinv.payload_idx hs
    obtain ⟨hlt, hmax⟩ := hinv.payload_bound hs
    exact rxInv_of_payload rfl hi hlt hmax hinv.written hf
  | store hs _ hlt hne =>
    have hi := hinv.payload_idx hs
    obtain ⟨-, hmax⟩ := hinv.payload_bound hs
    refine rxInv_of_payload rfl hi ?_ hmax (written_stored hinv hs) hf
    show s.rx.count + 1#16 < s.rx.len
    bv_omega
  | reserved e => exact absurd e (BitVec.not_lt.mpr hinv.state_legal)

/-- Every action keeps the parser's part. -/
theorem takeAction_rxInv {s t : State} {a : Action} (hinv : RxInv s) (h : takeAction a s = .next t) :
    RxInv t := by
  obtain (rfl | rfl | rfl | ⟨addr, rfl⟩) | htx | rfl := a.half_or_reset
  · obtain ⟨-, rfl⟩ | ⟨b, bs, -, hp, h⟩ := takeAction_rxByte_next h
    · exact hinv
    · exact (rxRow_next (s := tookByte s) hp h).2.rxInv (hinv.congr rfl rfl rfl rfl)
  · obtain ⟨-, rfl⟩ | ⟨-, rfl⟩ := evtAck_next h
    · exact hinv.congr rfl rfl rfl rfl
    · exact hinv
  · obtain ⟨-, rfl⟩ | ⟨-, hf, rfl⟩ := timeout_next h
    · exact hinv
    · exact rxInv_of_reset rfl hf
  · cases h
    exact hinv.congr rfl rfl rfl rfl
  · obtain ⟨hrx, hbuf, -, hf, -⟩ := takeAction_rxHalfKept htx h
    exact hinv.congr (takeAction_sameBlock h).1 hrx hbuf hf
  · cases h
    exact rxInv_of_reset rfl rfl

/-! ## The event's part -/

/-- The event's part speaks of its registers, of what it has written in the buffer, of the parameters and, while
the event is pending, of the parser. -/
theorem EvtInv.congr {s t : State} (h : EvtInv s) (hp : t.params = s.params) (he : t.evt = s.evt)
    (hw : Written t.rxBuf s.evt.count.toNat) (hr : s.evt.pending = true → t.rx = s.rx) : EvtInv t := by
  constructor <;> simp only [hp, he]
  case written => exact hw
  case resume =>
    intro hpend
    rw [hr hpend]
    exact h.resume hpend
  exacts [h.type_legal, h.err_legal, h.err_zero, h.count_bound]

/-- The codes of an event that a raise or a signal loads (R56, R57). -/
def LegalCodes (type : BitVec 2) (err : BitVec 3) : Prop :=
  type ≠ 3#2 ∧ err ≤ 5#3 ∧ (type ≠ EvtType.error → err = 0#3)

theorem legalCodes_error (k : ErrorKind) : LegalCodes EvtType.error k.code :=
  ⟨by decide, by cases k <;> decide, absurd rfl⟩

/-- A PACKET or a BOUNDARY, or the registers at reset. -/
theorem legalCodes_noError (type : BitVec 2) (h : type ≠ 3#2) : LegalCodes type 0#3 :=
  ⟨h, by decide, fun _ => rfl⟩

theorem legalCodes_frameEvent (bytes : List Byte) (chk topic len : Half) (b : Byte) :
    LegalCodes (frameEvent bytes chk topic len b).type (frameEvent bytes chk topic len b).err := by
  unfold frameEvent
  split_ifs
  · exact legalCodes_noError EvtType.packet (by decide)
  · exact legalCodes_error .checksumMismatch

theorem frameEvent_count (bytes : List Byte) (chk topic len : Half) (b : Byte) :
    (frameEvent bytes chk topic len b).count = len := by
  unfold frameEvent
  split_ifs <;> rfl

/-- The parser where an event leaves it: in WFH, or with a new frame begun (60_exceptions.md R135). -/
def Resumes (r : RxRegs) : Prop := r.state = RxState.wfh ∨ (r.state = RxState.rck ∧ r.idx = 0#1)

/-- A loaded event. -/
theorem evtInv_of_loaded {t : State} (hcodes : LegalCodes t.evt.type t.evt.err)
    (hmax : t.evt.count ≤ t.params.maxPacketSize) (hw : Written t.rxBuf t.evt.count.toNat)
    (hr : Resumes t.rx) : EvtInv t := by
  obtain ⟨htype, herr, hzero⟩ := hcodes
  exact ⟨htype, herr, hzero, hmax, hw, fun _ => hr⟩

/-- An event without a payload. -/
theorem evtInv_of_loaded_empty {t : State} (hcodes : LegalCodes t.evt.type t.evt.err) (hc : t.evt.count = 0#16)
    (hr : Resumes t.rx) : EvtInv t := by
  refine evtInv_of_loaded hcodes ?_ ?_ hr <;> rw [hc]
  · bv_omega
  · exact written_zero _

/-- An error that reports the frame so far. -/
theorem evtInv_of_raised {s t : State} (k : ErrorKind) (hinv : RxInv s) {topic len : Half} {b : Byte}
    (he : t.evt = ⟨true, EvtType.error, k.code, topic, len, s.rx.count, b⟩)
    (hp : t.params = s.params) (hb : t.rxBuf = s.rxBuf) (hr : Resumes t.rx) : EvtInv t := by
  refine evtInv_of_loaded ?_ ?_ ?_ hr <;> rw [he]
  · exact legalCodes_error k
  · rw [hp]
    exact hinv.count_le
  · rw [hb]
    exact hinv.written

/-- A received byte keeps the event's part. -/
theorem RxEffect.evtInv {s t : State} {b : Byte} (h : RxEffect s b t) (hinv : RxInv s) (he : EvtInv s)
    (hp : s.evt.pending = false) : EvtInv t := by
  have quiet {u : State} (hu : u.params = s.params) (hev : u.evt = s.evt)
      (hw : Written u.rxBuf s.evt.count.toNat) : EvtInv u :=
    he.congr hu hev hw (by simp [hp])
  cases h with
  | start | header | payload | escape | reserved => exact quiet rfl rfl he.written
  | store =>
    refine quiet rfl rfl ?_
    obtain hb | ⟨-, hb⟩ := stored_rxBuf_cases s b <;> rw [hb]
    · exact he.written
    · exact Written.write he.written _ b
  | boundary e => exact evtInv_of_loaded_empty (legalCodes_noError EvtType.boundary (by decide)) rfl (.inl e)
  | outOfFrame e => exact evtInv_of_loaded_empty (legalCodes_error .outOfFrameByte) rfl (.inl e)
  | tooLong => exact evtInv_of_loaded_empty (legalCodes_error .bufferOverflow) rfl (.inl rfl)
  | empty =>
    exact evtInv_of_loaded_empty (legalCodes_frameEvent _ _ _ _ _) (frameEvent_count _ _ _ _ _) (.inl rfl)
  | resync => exact evtInv_of_raised .unexpectedHeader hinv rfl rfl rfl (.inr ⟨rfl, rfl⟩)
  | strict => exact evtInv_of_raised .unknownError hinv rfl rfl rfl (.inl rfl)
  | guard => exact evtInv_of_raised .bufferOverflow hinv rfl rfl rfl (.inl rfl)
  | finish hs hlt hlast =>
    have hc : (completionEvt (stored s b) b).count = s.rx.len := frameEvent_count _ _ _ _ _
    refine evtInv_of_loaded (legalCodes_frameEvent _ _ _ _ _) ?_ ?_ (.inl rfl)
    · exact hc ▸ (hinv.payload_bound hs).2
    · have hw := written_stored (b := b) hinv hs
      rw [hlast, ← hc] at hw
      exact hw

/-- Every action keeps the event's part. -/
theorem takeAction_evtInv {s t : State} {a : Action} (hinv : RxInv s) (he : EvtInv s)
    (h : takeAction a s = .next t) : EvtInv t := by
  obtain (rfl | rfl | rfl | ⟨addr, rfl⟩) | htx | rfl := a.half_or_reset
  · obtain ⟨-, rfl⟩ | ⟨b, bs, -, hp, h⟩ := takeAction_rxByte_next h
    · exact he
    · exact (rxRow_next (s := tookByte s) hp h).2.evtInv (hinv.congr rfl rfl rfl rfl)
        (he.congr rfl rfl he.written fun _ => rfl) hp
  · obtain ⟨-, rfl⟩ | ⟨-, rfl⟩ := evtAck_next h
    · exact ⟨he.type_legal, he.err_legal, he.err_zero, he.count_bound, he.written, fun hp => by cases hp⟩
    · exact he
  · obtain ⟨-, rfl⟩ | ⟨-, -, rfl⟩ := timeout_next h
    · exact he
    · exact evtInv_of_raised .incompletePacket hinv rfl rfl rfl (.inl rfl)
  · cases h
    exact he.congr rfl rfl he.written fun _ => rfl
  · obtain ⟨hrx, hbuf, hevt, -⟩ := takeAction_rxHalfKept htx h
    exact he.congr (takeAction_sameBlock h).1 hevt (hbuf ▸ he.written) fun _ => hrx
  · cases h
    exact evtInv_of_loaded_empty (legalCodes_noError EvtType.packet (by decide)) rfl (.inl rfl)

/-! ## The serializer's part -/

/-- The serializer's part speaks of its registers, its fault record and the parameters. -/
theorem TxInv.congr {s t : State} (h : TxInv s) (hp : t.params = s.params) (ht : t.tx = s.tx)
    (hf : t.txFault = s.txFault) : TxInv t := by
  constructor <;> simp only [hp, ht, hf]
  exacts [h.phase_legal, h.header_idx, h.payload_bound, h.hold_reserved, h.endmk_enabled, h.fault_legal]

/-- The fault record that a run leaves on the TX half. -/
def TxFaultLegal (s : State) : Prop := s.txFault = none ∨ s.txFault = some .payloadChangedDuringSend

theorem txInv_of_idle {t : State} (h : t.tx.phase = TxPhase.idle) (hf : TxFaultLegal t) : TxInv t := by
  constructor
  case fault_legal => exact hf
  all_goals simp +decide [h]

theorem headerPhase_lt {ph : BitVec 4} (h : headerPhase ph = true) : ph < TxPhase.data := by
  revert ph
  decide

theorem txInv_of_header {t : State} (h : headerPhase t.tx.phase = true) (hi : t.tx.idx = 0#16)
    (hf : TxFaultLegal t) : TxInv t where
  phase_legal := by
    have := headerPhase_lt h
    bv_omega
  header_idx _ := hi
  payload_bound e := by
    obtain e | e := e <;> rw [e] at h <;> cases h
  hold_reserved e := by rw [e] at h; cases h
  endmk_enabled e := by rw [e] at h; cases h
  fault_legal := hf

/-- A phase that has a payload byte left to send; in DATA_ESC the byte held is a reserved one. -/
theorem txInv_of_payload {t : State}
    (h : t.tx.phase = TxPhase.data ∨
      (t.tx.phase = TxPhase.dataEsc ∧ isReserved t.params.endMarker t.tx.hold = true))
    (hi : t.tx.idx < t.tx.len) (hf : TxFaultLegal t) : TxInv t := by
  obtain e | ⟨e, hr⟩ := h
  all_goals
    constructor
    case fault_legal => exact hf
    all_goals simp +decide [*]

theorem txInv_of_endmk {t : State} (h : t.tx.phase = TxPhase.endmk) (he : t.params.endMarker = true)
    (hf : TxFaultLegal t) : TxInv t := by
  constructor
  case fault_legal => exact hf
  all_goals simp +decide [h, he]

/-- After a payload byte the frame is done, or the next byte is left (R111, R112). -/
theorem txInv_nextPayloadByte {s : State} (hi : s.tx.idx < s.tx.len) (hf : TxFaultLegal s) :
    TxInv (nextPayloadByte s) := by
  by_cases hlast : s.tx.idx + 1#16 = s.tx.len
  · exact txInv_of_idle (if_pos hlast) hf
  · refine txInv_of_payload (.inl (if_neg hlast)) ?_ hf
    show s.tx.idx + 1#16 < s.tx.len
    bv_omega

/-- The header phases before the last are followed by header phases. -/
theorem headerPhase_succ {ph : BitVec 4} (h : headerPhase ph = true) (hne : ph ≠ TxPhase.lenLo) :
    headerPhase (ph + 1#4) = true := by
  revert ph
  decide

/-- An emission keeps the serializer's part. -/
theorem TxEffect.txInv {s t : State} (h : TxEffect s t) (hinv : TxInv s) : TxInv t := by
  have hf := hinv.fault_legal
  cases h with
  | header ph b hh hne hph =>
    subst hph
    exact txInv_of_header (headerPhase_succ hh hne) (hinv.header_idx hh) hf
  | lastHeader e =>
    have hi : s.tx.idx = 0#16 := hinv.header_idx (by rw [e]; rfl)
    by_cases hl : s.tx.len = 0#16
    · exact txInv_of_idle (if_pos hl) hf
    · refine txInv_of_payload (.inl (if_neg hl)) ?_ hf
      show s.tx.idx < s.tx.len
      bv_omega
  | escape v e _ hr => exact txInv_of_payload (.inr ⟨rfl, hr⟩) (hinv.payload_bound (.inl e)) hf
  | plain v e => exact txInv_nextPayloadByte (s := emit v s) (hinv.payload_bound (.inl e)) hf
  | escaped e => exact txInv_nextPayloadByte (s := emit s.tx.hold s) (hinv.payload_bound (.inr e)) hf
  | marker => exact txInv_of_idle rfl hf
  | reserved e => exact absurd e (BitVec.not_lt.mpr hinv.phase_legal)

/-- A command keeps the serializer's part. -/
theorem CmdEffect.txInv {s t : State} {c : BitVec 33} (h : CmdEffect s c t) (hinv : TxInv s) : TxInv t := by
  cases h with
  | frame => exact txInv_of_header rfl rfl hinv.fault_legal
  | marker _ he => exact txInv_of_endmk rfl he hinv.fault_legal
  | ignored => exact hinv

/-- A PayWrite that breaks the stability duty records its own fault, or keeps the one there is. -/
theorem txFault_getD {s : State} (hf : TxFaultLegal s) :
    s.txFault.getD .payloadChangedDuringSend = .payloadChangedDuringSend := by
  obtain e | e := hf <;> rw [e] <;> rfl

/-- Every action keeps the serializer's part. -/
theorem takeAction_txInv {s t : State} {a : Action} (hinv : TxInv s) (h : takeAction a s = .next t) :
    TxInv t := by
  obtain hrx | (rfl | rfl | ⟨addr, v, rfl⟩) | rfl := a.half_or_reset
  · obtain ⟨htx, hf, -⟩ := takeAction_txHalfKept hrx h
    exact hinv.congr (takeAction_sameBlock h).1 htx hf
  · obtain ⟨-, rfl⟩ | ⟨c, cs, -, hp, h⟩ := takeAction_txCmd_next h
    · exact hinv
    · exact (cmdRow_next (s := tookCmd s) hp h).2.txInv (hinv.congr rfl rfl rfl)
  · obtain ⟨-, rfl⟩ | ⟨i, hp, hi, h⟩ := takeAction_txEmit_next h
    · exact hinv
    · exact (txRow_next hp hi h).2.txInv hinv
  · obtain ⟨-, rfl⟩ | ⟨-, rfl⟩ := payWrite_next h
    · exact hinv.congr rfl rfl rfl
    · rw [txFault_getD hinv.fault_legal]
      obtain ⟨hphase, hidx, hbound, hhold, hendmk, -⟩ := hinv
      exact ⟨hphase, hidx, hbound, hhold, hendmk, .inr rfl⟩
  · cases h
    exact txInv_of_idle rfl (.inl rfl)

/-! ## The statement -/

theorem takeAction_inv {s t : State} {a : Action} (hinv : Inv s) (h : takeAction a s = .next t) : Inv t :=
  ⟨takeAction_memInv hinv.mem h, takeAction_rxInv hinv.rx h, takeAction_evtInv hinv.rx hinv.evt h,
    takeAction_txInv hinv.tx h⟩

/-- The invariant does not speak of the environment's choices. -/
theorem dropAction_inv {s : State} (hinv : Inv s) : Inv (dropAction s) where
  mem := ⟨hinv.mem.rxBuf_wf, hinv.mem.pay_wf, hinv.mem.rxBuf_range, hinv.mem.pay_range⟩
  rx := hinv.rx.congr rfl rfl rfl rfl
  evt := hinv.evt.congr rfl rfl hinv.evt.written fun _ => rfl
  tx := hinv.tx.congr rfl rfl rfl

/-- Settles O44: a step waits or takes one action, and every action keeps each part of the invariant. -/
theorem stepKeepsInvariant : Obligations.StepKeepsInvariant := by
  intro s t hinv h
  obtain ⟨-, rfl⟩ | ⟨a, -, h⟩ := step_next h
  · exact hinv
  · exact takeAction_inv (dropAction_inv hinv) h

end Sys2Proof.Machine
end

section
/-! The codec (40_frame_codec.md): what the checksum is of a sequence, what it tells apart, what escaping does, and
the frame an accepted SEND_FRAME queues. -/

namespace Sys2Proof

/-! ## The checksum's two halves -/

@[simp] theorem hiByte_append (x y : Byte) : hiByte (x ++ y) = x := extract_hi x y

@[simp] theorem loByte_append (x y : Byte) : loByte (x ++ y) = y := extract_lo x y

theorem checksum_eq_append (s : List Byte) :
    checksum s = (Sums.seed.addAll s).sum2 ++ (Sums.seed.addAll s).sum1 := rfl

theorem half_eq_iff {h k : Half} : h = k ↔ hiByte h = hiByte k ∧ loByte h = loByte k := by
  refine ⟨by rintro rfl; exact ⟨rfl, rfl⟩, fun ⟨hhi, hlo⟩ => ?_⟩
  calc h = hiByte h ++ loByte h := (append_extract (n := 8) (m := 8) h).symm
    _ = hiByte k ++ loByte k := by rw [hhi, hlo]
    _ = k := append_extract (n := 8) (m := 8) k

theorem Sums.addAll_append (a : Sums) (s t : List Byte) : a.addAll (s ++ t) = (a.addAll s).addAll t :=
  List.foldl_append

/-- Settles O37: the accumulators of `bs` can be read off its checksum, and the last byte is added to them. -/
theorem checksumRecurrence : Obligations.ChecksumRecurrence := by
  refine ⟨rfl, fun bs b sum1 sum2 h => ?_⟩
  have hlo : (Sums.seed.addAll bs).sum1 = sum1 := by
    simpa [checksum_eq_append] using congrArg loByte h
  have hhi : (Sums.seed.addAll bs).sum2 = sum2 := by
    simpa [checksum_eq_append] using congrArg hiByte h
  rw [checksum_eq_append, Sums.addAll_append, ← hlo, ← hhi]
  rfl

/-! ## The closed form (R62) -/

/-- The first sum of R62, over the naturals. -/
def byteSum (s : List Byte) : Nat := (s.map BitVec.toNat).sum

/-- The second sum of R62, over the naturals: each byte weighted by its distance from the end. -/
def weightedSum (s : List Byte) : Nat :=
  ((List.range s.length).map fun i => (s.length - i) * (s.getD i 0#8).toNat).sum

@[simp] theorem byteSum_cons (b : Byte) (s : List Byte) : byteSum (b :: s) = b.toNat + byteSum s := by
  simp [byteSum]

@[simp] theorem byteSum_append (s t : List Byte) : byteSum (s ++ t) = byteSum s + byteSum t := by
  simp [byteSum]

@[simp] theorem weightedSum_cons (b : Byte) (s : List Byte) :
    weightedSum (b :: s) = (s.length + 1) * b.toNat + weightedSum s := by
  simp [weightedSum, List.range_succ_eq_map, Function.comp_def]

@[simp] theorem weightedSum_append (s t : List Byte) :
    weightedSum (s ++ t) = weightedSum s + t.length * byteSum s + weightedSum t := by
  induction s with
  | nil => simp [weightedSum, byteSum]
  | cons b s ih =>
    simp only [List.cons_append, weightedSum_cons, byteSum_cons, List.length_append, ih]
    ring

/-- R62 from any accumulators: every byte goes into `sum1` once, and each later sum into `sum2`. -/
theorem Sums.addAll_eq (a : Sums) (s : List Byte) :
    a.addAll s = ⟨a.sum1 + (byteSum s : Byte),
      a.sum2 + (s.length : Byte) * a.sum1 + (weightedSum s : Byte)⟩ := by
  induction s generalizing a with
  | nil => simp [Sums.addAll, byteSum, weightedSum]
  | cons b s ih =>
    have hb : ((b.toNat : Nat) : Byte) = b := by simp
    rw [show a.addAll (b :: s) = (a.add b).addAll s from rfl, ih]
    simp only [Sums.add, byteSum_cons, weightedSum_cons, List.length_cons, Nat.cast_add, Nat.cast_mul, Nat.cast_one,
      hb, Sums.mk.injEq]
    constructor <;> ring

theorem toNat_loByte_checksum (s : List Byte) :
    (loByte (checksum s)).toNat = (0xFF + byteSum s) % 256 := by
  rw [checksum_eq_append, loByte_append, Sums.addAll_eq]
  simp [Sums.seed]

theorem toNat_hiByte_checksum (s : List Byte) :
    (hiByte (checksum s)).toNat = (0xFF * (s.length + 1) + weightedSum s) % 256 := by
  have hsum2 : (Sums.seed.addAll s).sum2 = ((0xFF * (s.length + 1) + weightedSum s : Nat) : Byte) := by
    have hseed : Sums.seed.sum1 = ((0xFF : Nat) : Byte) ∧ Sums.seed.sum2 = ((0xFF : Nat) : Byte) := ⟨rfl, rfl⟩
    simp only [Sums.addAll_eq, hseed, Nat.cast_add, Nat.cast_mul, Nat.cast_one]
    ring
  rw [checksum_eq_append, hiByte_append, hsum2]
  exact BitVec.toNat_ofNat _ _

/-- Settles O38: each half of the checksum is R62 from the seeds. -/
theorem checksumClosedForm : Obligations.ChecksumClosedForm :=
  fun s => ⟨toNat_loByte_checksum s, toNat_hiByte_checksum s⟩

/-- Two sequences of one length have the same checksum exactly when both sums agree mod 256. -/
theorem checksum_eq_iff {s t : List Byte} (hlen : s.length = t.length) : checksum s = checksum t ↔
    byteSum s ≡ byteSum t [MOD 256] ∧ weightedSum s ≡ weightedSum t [MOD 256] := by
  simp only [half_eq_iff (h := checksum s), ← BitVec.toNat_inj, toNat_loByte_checksum, toNat_hiByte_checksum, hlen,
    Nat.ModEq]
  omega

/-- Settles O39: the changed byte changes the first sum by less than 256. -/
theorem checksumDetectsOneChangedByte : Obligations.ChecksumDetectsOneChangedByte := by
  intro before after b c hbc h
  obtain ⟨hsum, -⟩ := (checksum_eq_iff (by simp)).mp h
  have hne : b.toNat ≠ c.toNat := fun e => hbc (BitVec.eq_of_toNat_eq e)
  simp only [byteSum_append, byteSum_cons, Nat.ModEq] at hsum
  omega

/-- Settles O40: a swap keeps the first sum and moves the second by the distance times the difference. -/
theorem checksumSwapUndetectedExactly : Obligations.ChecksumSwapUndetectedExactly := by
  intro before mid after b c
  have hsum : byteSum (before ++ b :: (mid ++ c :: after)) = byteSum (before ++ c :: (mid ++ b :: after)) := by
    simp only [byteSum_append, byteSum_cons]
    omega
  have hdiff : (weightedSum (before ++ b :: (mid ++ c :: after)) : Int) -
      weightedSum (before ++ c :: (mid ++ b :: after)) = (mid.length + 1) * (b.toNat - c.toNat) := by
    simp only [weightedSum_append, weightedSum_cons, List.length_append, List.length_cons]
    push_cast
    ring
  rw [checksum_eq_iff (by simp), hsum, and_iff_right (Nat.ModEq.refl _), Nat.ModEq.comm, Nat.modEq_iff_dvd, hdiff]
  rfl

/-! ## Escaping -/

theorem isReserved_iff {e : Bool} {b : Byte} :
    isReserved e b = true ↔ b = HEADER ∨ b = ESCAPE ∨ (e = true ∧ b = ENDMARK) := by
  simp [isReserved, or_assoc]

theorem escape_cons_of_reserved {e : Bool} {b : Byte} (h : isReserved e b = true) (s : List Byte) :
    escape e (b :: s) = ESCAPE :: b :: escape e s := by simp [escape, escapeByte, h]

theorem escape_cons_of_not_reserved {e : Bool} {b : Byte} (h : isReserved e b = false) (s : List Byte) :
    escape e (b :: s) = b :: escape e s := by simp [escape, escapeByte, h]

theorem unescape_escape_cons (b : Byte) (s : List Byte) : unescape (ESCAPE :: b :: s) = b :: unescape s := rfl

theorem unescape_cons_of_ne {b : Byte} (h : b ≠ ESCAPE) (s : List Byte) :
    unescape (b :: s) = b :: unescape s := by
  cases s with
  | nil => rfl
  | cons c s => exact if_neg h

/-- A byte that is not reserved is neither HEADER nor ESCAPE. -/
theorem ne_of_not_reserved {e : Bool} {b : Byte} (h : isReserved e b = false) : b ≠ HEADER ∧ b ≠ ESCAPE := by
  constructor <;> (rintro rfl; cases h)

/-- Settles O41: each unit of the escaped form gives back its byte. -/
theorem unescapeOfEscape : Obligations.UnescapeOfEscape := by
  intro e s
  induction s with
  | nil => rfl
  | cons b s ih =>
    cases h : isReserved e b with
    | true => rw [escape_cons_of_reserved h, unescape_escape_cons, ih]
    | false => rw [escape_cons_of_not_reserved h, unescape_cons_of_ne (ne_of_not_reserved h).2, ih]

/-- R65: one byte more for each reserved byte. -/
theorem length_escape (e : Bool) (s : List Byte) :
    (escape e s).length = s.length + s.countP (isReserved e) := by
  induction s with
  | nil => rfl
  | cons b s ih =>
    cases h : isReserved e b with
    | true => simp [escape_cons_of_reserved h, h, ih]; omega
    | false => simp [escape_cons_of_not_reserved h, h, ih]; omega

/-- R66: HEADER stands in an escaped form only right after ESCAPE. -/
theorem escape_before_header {e : Bool} {s : List Byte} {i : Nat} (h : (escape e s)[i]? = some HEADER) :
    ∃ j, i = j + 1 ∧ (escape e s)[j]? = some ESCAPE := by
  induction s generalizing i with
  | nil => cases h
  | cons b s ih =>
    cases hr : isReserved e b with
    | true =>
      rw [escape_cons_of_reserved hr] at h ⊢
      match i with
      | 0 => cases h
      | 1 => exact ⟨0, rfl, rfl⟩
      | i + 2 =>
        obtain ⟨j, rfl, hj⟩ := ih h
        exact ⟨j + 2, rfl, hj⟩
    | false =>
      rw [escape_cons_of_not_reserved hr] at h ⊢
      match i with
      | 0 => exact absurd (Option.some.inj h) (ne_of_not_reserved hr).1
      | i + 1 =>
        obtain ⟨j, rfl, hj⟩ := ih h
        exact ⟨j + 1, rfl, hj⟩

/-- Settles O42: R64, R65 and the first property of R66. -/
theorem escapeShape : Obligations.EscapeShape :=
  fun e s => ⟨fun _ => isReserved_iff, length_escape e s, fun _ => escape_before_header⟩

end Sys2Proof

namespace Sys2Proof.Machine

/-! ## The frame a SEND_FRAME queues -/

@[simp] theorem length_payBytes (s : State) (n : Nat) : (payBytes s n).length = n := by simp [payBytes]

/-- The escaped form from address 0 is that of the payload. -/
theorem escapedPay_zero (s : State) (n : Nat) :
    escapedPay s 0 n = escape s.params.endMarker (payBytes s n) := by
  rw [escapedPay, payBytes, List.range_eq_range']

/-- In phase HDR the whole frame is left to emit. -/
theorem bytesToEmit_of_hdr {s : State} (h : s.tx.phase = TxPhase.hdr) :
    bytesToEmit s = txHeader s ++ escapedPay s 0 s.tx.len.toNat := by
  rw [bytesToEmit, h]
  rfl

/-- Settles O55: the command loads the frame's header fields, and all of the frame is still to go out. -/
theorem sendFrameQueuesEncodedFrame : Obligations.SendFrameQueuesEncodedFrame := by
  intro s topic len hf hp
  refine ⟨_, txCmdStep_idle hf hp _, ?_⟩
  rw [bytesToEmit_of_hdr rfl, escapedPay_zero, encodeFrame, frameHeader, length_payBytes,
    BitVec.ofNat_toNat, BitVec.setWidth_eq]
  rfl

end Sys2Proof.Machine
end

section
/-! The round trip (40_frame_codec.md R69): what a parser makes of the bytes of a frame, each followed by an
acknowledge. -/

namespace Sys2Proof.Machine

/-! ## Rows run on ports that differ -/

theorem complete_setEnv (b : Byte) (s : State) (x : Env) :
    complete b (s.setEnv x) = (complete b s).setEnv x := by
  rw [complete_eq, complete_eq]
  rfl

theorem store_setEnv (b : Byte) (s : State) (x : Env) : store b (s.setEnv x) = (store b s).setEnv x := by
  rw [store_eq, store_eq, apply_ite (State.setEnv · x), apply_ite (State.setEnv · x)]
  rfl

theorem lengthByte_setEnv (l : Half) (b : Byte) (s : State) (x : Env) :
    lengthByte l b (s.setEnv x) = (lengthByte l b s).setEnv x := by
  simp only [lengthByte, apply_ite (State.setEnv · x), ← complete_setEnv]
  rfl

/-- An RX row does the same whatever the ports hold. -/
theorem exec_decodeRx_setEnv (p : Params) (st : BitVec 3) (b : Byte) (s : State) (x : Env) :
    exec (decodeRx p (rxWord st b)) (s.setEnv x) =
      mapNext (State.setEnv · x) (exec (decodeRx p (rxWord st b)) s) := by
  have row {t u : State} (hu : u = t.setEnv x) :
      rxByteStep (s.setEnv x) (.next u) = mapNext (State.setEnv · x) (rxByteStep s (.next t)) := by
    subst hu
    exact rxByteStep_mapNext (f := (State.setEnv · x)) rfl rfl (.next t)
  rw [decodeRx_rxWord]
  split_ifs
  · exact row (t := startFrame s) rfl
  · exact row (t := signalBoundary ENDMARK s) rfl
  · exact row (t := raiseError .outOfFrameByte 0#16 0#16 0#16 b s) rfl
  · exact row rfl
  · exact row rfl
  · exact row (lengthByte_setEnv (shiftIn s.rx.len b) b s x)
  · exact row rfl
  · exact row rfl
  · exact row (store_setEnv b s x)
  · refine row ?_
    rw [apply_ite (State.setEnv · x), ← store_setEnv]
    rfl
  · exact row rfl

theorem RxEffect.env {s t : State} {b : Byte} (h : RxEffect s b t) : t.env = s.env := by
  cases h <;> rfl

/-! ## A byte and its acknowledge -/

/-- The state after an acknowledge (60_exceptions.md R142). -/
def acked (s : State) : State := if s.evt.pending then takeEvent s else s

theorem acked_of_pending {s : State} (h : s.evt.pending = true) : acked s = takeEvent s := if_pos h

theorem acked_of_not_pending {s : State} (h : s.evt.pending = false) : acked s = s := by simp [acked, h]

theorem exec_evtAck (s : State) : exec .evtAck s = .next (acked s) := by
  unfold acked
  split_ifs with h
  · exact exec_evtAck_of_pending h
  · exact if_neg h

theorem acked_env (s : State) : (acked s).env = s.env := by
  unfold acked
  split_ifs <;> rfl

theorem acked_setEnv (s : State) (x : Env) : acked (s.setEnv x) = (acked s).setEnv x :=
  (apply_ite (State.setEnv · x) (s.evt.pending = true) (takeEvent s) s).symm

/-- The two steps of one acknowledged byte. -/
theorem run_feedAcked_cons {s t : State} {b : Byte} (bs : List Byte) (hp : s.evt.pending = false)
    (h : exec (decodeRx s.params (rxWord s.rx.state b)) s = .next t) (k : Nat) :
    Sys2Proof.core.run (k + 2) (feedAcked (b :: bs) s) = Sys2Proof.core.run k (feedAcked bs (acked t)) := by
  have henv : t.env = s.env := (rxRow_next hp h).2.env
  let x : Env := ⟨bs, s.env.cmdIn, .evtAck :: bs.flatMap fun _ => [Action.rxByte, Action.evtAck]⟩
  have hbyte : step (feedAcked (b :: bs) s) = .next (t.setEnv x) := by
    rw [step_cons rfl, takeAction_rxByte (s := dropAction (feedAcked (b :: bs) s)) rfl hp]
    exact (exec_decodeRx_setEnv s.params s.rx.state b s x).trans (by rw [h]; rfl)
  have hack : step (t.setEnv x) = .next (feedAcked bs (acked t)) := by
    rw [step_cons rfl, takeAction_evtAck, exec_evtAck, feedAcked, acked_env, henv]
    exact congrArg Host.Outcome.next (acked_setEnv t _)
  rw [run_succ hbyte, run_succ hack]

/-- Acknowledged bytes `bs` take a ready parser from `s` to `u`. -/
inductive Feeds : State → List Byte → State → Prop where
  | nil (s : State) : Feeds s [] s
  | cons {s t u : State} {b : Byte} {bs : List Byte} : s.evt.pending = false →
      exec (decodeRx s.params (rxWord s.rx.state b)) s = .next t → Feeds (acked t) bs u →
      Feeds s (b :: bs) u

theorem Feeds.append {s t u : State} {bs cs : List Byte} (h : Feeds s bs t) (h' : Feeds t cs u) :
    Feeds s (bs ++ cs) u := by
  induction h with
  | nil => exact h'
  | cons hp hx _ ih => exact .cons hp hx (ih h')

/-- The run of the machine that `Feeds` stands for. -/
theorem Feeds.run {s u : State} {bs : List Byte} (h : Feeds s bs u) :
    Sys2Proof.core.run (2 * bs.length) (feedAcked bs s) = .next (feedAcked [] u) := by
  induction h with
  | nil => rfl
  | cons hp hx _ ih => exact (run_feedAcked_cons _ hp hx _).trans ih

/-! ## The row of a byte, on a parser that is ready -/

/-- The RX half takes a byte: no fault recorded, no event pending. -/
def Ready (s : State) : Prop := s.rxFault = none ∧ s.evt.pending = false

/-- A byte whose row leaves no event pending. -/
theorem Feeds.quiet {s t u : State} {b : Byte} {bs : List Byte} {i : Instr} (hs : Ready s)
    (hi : decodeRx s.params (rxWord s.rx.state b) = i) (hx : exec i s = rxByteStep s (.next t))
    (ht : t.evt.pending = false) (h : Feeds t bs u) : Feeds s (b :: bs) u := by
  refine .cons hs.2 (t := t) ?_ (by rwa [acked_of_not_pending ht])
  rw [hi, hx, rxByteStep_ready hs.1 hs.2]

/-- The last byte of a feed. -/
theorem Feeds.last {s t : State} {b : Byte} {i : Instr} (hs : Ready s)
    (hi : decodeRx s.params (rxWord s.rx.state b) = i) (hx : exec i s = rxByteStep s (.next t)) :
    Feeds s [b] (acked t) := by
  refine .cons hs.2 ?_ (.nil _)
  rw [hi, hx, rxByteStep_ready hs.1 hs.2]

/-! ## The header (R80, R83 to R85) -/

/-- HEADER and five field bytes, from WFH: the second length byte is to come. -/
theorem feeds_fieldBytes {s : State} (hs : Ready s) (hw : s.rx.state = RxState.wfh) (c₁ c₂ t₁ t₂ l₁ : Byte) :
    Feeds s [HEADER, c₁, c₂, t₁, t₂, l₁] (s.setRx ⟨RxState.rlen, 1#1, shiftIn (shiftIn 0#16 c₁) c₂,
      shiftIn (shiftIn 0#16 t₁) t₂, shiftIn 0#16 l₁, 0#16⟩) := by
  let chk := shiftIn (shiftIn 0#16 c₁) c₂
  let topic := shiftIn (shiftIn 0#16 t₁) t₂
  have ready (r : RxRegs) : Ready (s.setRx r) := hs
  refine .quiet hs (i := .rxWfhHdr) (t := startFrame s) (by rw [hw, decodeRx_wfh]; rfl) rfl hs.2 ?_
  refine .quiet (ready _) (t := s.setRx ⟨RxState.rck, 1#1, shiftIn 0#16 c₁, 0#16, 0#16, 0#16⟩)
    (decodeRx_rck _ _) rfl hs.2 ?_
  refine .quiet (ready _) (t := s.setRx ⟨RxState.rtid, 0#1, chk, 0#16, 0#16, 0#16⟩)
    (decodeRx_rck _ _) rfl hs.2 ?_
  refine .quiet (ready _) (t := s.setRx ⟨RxState.rtid, 1#1, chk, shiftIn 0#16 t₁, 0#16, 0#16⟩)
    (decodeRx_rtid _ _) rfl hs.2 ?_
  refine .quiet (ready _) (t := s.setRx ⟨RxState.rlen, 0#1, chk, topic, 0#16, 0#16⟩)
    (decodeRx_rtid _ _) rfl hs.2 ?_
  exact .quiet (ready _) (decodeRx_rlen _ _) rfl hs.2 (.nil _)

/-- The parser's registers in the frame `(topic, P)` with the second length byte to come. -/
def lastLenRegs (topic : Half) (P : List Byte) : RxRegs :=
  ⟨RxState.rlen, 1#1, checksum P, topic, shiftIn 0#16 (hiByte (BitVec.ofNat 16 P.length)), 0#16⟩

/-- The seven header bytes of a frame end in R85's test of the announced length. -/
theorem feeds_frameHeader {s : State} (hs : Ready s) (hw : s.rx.state = RxState.wfh) (topic : Half)
    (P : List Byte) : Feeds s (frameHeader topic P) (acked (lengthByte (BitVec.ofNat 16 P.length)
      (loByte (BitVec.ofNat 16 P.length)) (s.setRx (lastLenRegs topic P)))) := by
  have hfields := feeds_fieldBytes hs hw (hiByte (checksum P)) (loByte (checksum P)) (hiByte topic)
    (loByte topic) (hiByte (BitVec.ofNat 16 P.length))
  have hlast := Feeds.last (s := s.setRx (lastLenRegs topic P)) (b := loByte (BitVec.ofNat 16 P.length)) hs
    (decodeRx_rlen _ _) rfl
  rw [shiftIn_field, shiftIn_field] at hfields
  rw [setRx_rx, show (lastLenRegs topic P).len = shiftIn 0#16 (hiByte (BitVec.ofNat 16 P.length)) from rfl,
    shiftIn_field] at hlast
  exact hfields.append hlast

theorem lengthByte_of_too_long {s : State} {l : Half} (b : Byte) (hi : s.rx.idx = 1#1)
    (h : s.params.maxPacketSize < l) :
    lengthByte l b s = enterWfh (raiseError .bufferOverflow s.rx.topic l 0#16 b s) := by
  simp [lengthByte, hi, h]

theorem lengthByte_of_zero {s : State} (b : Byte) (hi : s.rx.idx = 1#1) :
    lengthByte 0#16 b s = complete b (s.setRx { s.rx with len := 0#16, idx := 0#1 }) := by
  have h : ¬ s.params.maxPacketSize < 0#16 := BitVec.not_lt_zero
  simp [lengthByte, hi, h]

theorem lengthByte_of_accepted {s : State} {l : Half} (b : Byte) (hi : s.rx.idx = 1#1) (h0 : l ≠ 0#16)
    (h : l ≤ s.params.maxPacketSize) :
    lengthByte l b s = s.setRx { s.rx with len := l, idx := 0#1, state := RxState.rdata } := by
  simp [lengthByte, hi, h0, BitVec.not_lt.mpr h]

/-- Settles O59: the header ends in the overflow row, and its event has no payload to view. -/
theorem tooLongFrameOverflows : Obligations.TooLongFrameOverflows := by
  intro s topic P hf hw hp hlong hlen
  have hmax : s.params.maxPacketSize < BitVec.ofNat 16 P.length := by
    rw [BitVec.lt_def, BitVec.toNat_ofNat, Nat.mod_eq_of_lt hlen]
    exact hlong
  have hfeed := feeds_frameHeader ⟨hf, hp⟩ hw topic P
  rw [lengthByte_of_too_long (s := s.setRx (lastLenRegs topic P)) _ rfl hmax, acked_of_pending rfl] at hfeed
  exact ⟨_, hfeed.run, rfl, rfl, rfl, rfl⟩

/-! ## Completing a frame whose payload is in the buffer -/

/-- The first cells of the buffer hold `bs`. -/
def Holds (s : State) (bs : List Byte) : Prop := (List.range bs.length).map (rxCell s) = bs

/-- The consumer reads an event's payload out of the buffer (60_exceptions.md R137). -/
theorem payloadView_eq {s : State} (h : s.evt.count ≤ s.params.maxPacketSize) :
    payloadView s = rxBytes s s.evt.count := by
  refine List.map_congr_left fun i hi => ?_
  have hlt : i < s.evt.count.toNat := List.mem_range.mp hi
  have hi : (BitVec.ofNat 16 i).toNat = i := Nat.mod_eq_of_lt (by omega)
  rw [bufRdata_of_lt (by bv_omega), hi]

/-- From `s`, exactly one event has been taken, the PACKET `(topic, P)`, and the parser is back in WFH. -/
def PacketTaken (topic : Half) (P : List Byte) (s t : State) : Prop :=
  (∃ last, t.obs.events = s.obs.events ++
    [⟨EvtType.packet, 0#3, topic, BitVec.ofNat 16 P.length, BitVec.ofNat 16 P.length, last, P⟩]) ∧
  t.rx.state = RxState.wfh ∧ t.evt.pending = false ∧ t.rxFault = none

/-- R92 and R142: completing a frame whose bytes are stored and acknowledging the event takes its PACKET. -/
theorem packetTaken_complete {s : State} {topic : Half} {P : List Byte} (b : Byte) (hf : s.rxFault = none)
    (hmax : P.length ≤ s.params.maxPacketSize.toNat) (hchk : s.rx.chk = checksum P) (htopic : s.rx.topic = topic)
    (hlen : s.rx.len = BitVec.ofNat 16 P.length) (hP : Holds s P) :
    PacketTaken topic P s (acked (complete b s)) := by
  have hlen' : s.rx.len.toNat = P.length := by
    rw [hlen, BitVec.toNat_ofNat, Nat.mod_eq_of_lt (by omega)]
  have hbytes : rxBytes s s.rx.len = P := by
    rw [rxBytes, hlen']
    exact hP
  have hevt : completionEvt s b = ⟨true, EvtType.packet, 0#3, topic, s.rx.len, s.rx.len, b⟩ := by
    rw [completionEvt, frameEvent, hbytes, if_pos hchk.symm, htopic]
  let t := (s.setEvt ⟨true, EvtType.packet, 0#3, topic, s.rx.len, s.rx.len, b⟩).setRx RxRegs.reset
  have hview : payloadView t = P := (payloadView_eq (s := t) (BitVec.le_def.mpr (hlen' ▸ hmax))).trans hbytes
  rw [complete_eq, hevt, acked_of_pending rfl]
  refine ⟨⟨b, ?_⟩, rfl, rfl, hf⟩
  rw [← hlen, ← hview]
  rfl

/-! ## The payload (R86, R88, R89, R91) -/

/-- In the frame `(topic, P)`, the payload bytes `done` are stored and the next one is to come. -/
structure Receiving (topic : Half) (P done : List Byte) (s : State) : Prop where
  ready : Ready s
  state : s.rx.state = RxState.rdata
  chk : s.rx.chk = checksum P
  topic_eq : s.rx.topic = topic
  len : s.rx.len = BitVec.ofNat 16 P.length
  count : s.rx.count.toNat = done.length
  fits : P.length ≤ s.params.maxPacketSize.toNat
  holds : Holds s done

theorem store_setState (st : BitVec 3) (b : Byte) (s : State) :
    store b (s.setRx { s.rx with state := st }) = store b s := by
  rw [store_eq, store_eq]
  rfl

/-- A receiver with parameters `p` takes after an ESCAPE every byte that a sender with END setting `e` escapes
(R89). -/
def TakesEscaped (p : Params) (e : Bool) : Prop :=
  ∀ b, isReserved e b = true → p.strictEscape = false ∨ isReserved p.endMarker b = true

/-- R69 allows a sender with the receiver's END setting, or one without END markers to a permissive receiver. -/
theorem takesEscaped_of_roundTrip {p : Params} {e : Bool}
    (h : e = p.endMarker ∨ (e = false ∧ p.endMarker = true ∧ p.strictEscape = false)) : TakesEscaped p e := by
  intro b hb
  obtain rfl | ⟨-, -, hpermissive⟩ := h
  · exact .inr hb
  · exact .inl hpermissive

/-- The unit that `escape` puts out for a byte stores that byte, whether or not it is escaped. -/
theorem feeds_escapeByte {s : State} {e : Bool} {b : Byte} (hs : Ready s) (hst : s.rx.state = RxState.rdata)
    (he : TakesEscaped s.params e) : Feeds s (escapeByte e b) (acked (store b s)) := by
  unfold escapeByte
  split_ifs with hr
  · refine .quiet hs (i := .rxRdataEsc) (by rw [hst, decodeRx_rdata]; rfl) rfl hs.2 ?_
    rw [← store_setState RxState.resc]
    refine .last hs (decodeRx_resc _ _) ?_
    exact exec_rxResc_literal (he b hr)
  · obtain ⟨hh, hesc⟩ := ne_of_not_reserved (by simpa using hr)
    exact .last hs (i := .rxRdataByte b) (by rw [hst, decodeRx_rdata, if_neg hesc, if_neg hh]) rfl

theorem Holds.stored {s : State} {bs : List Byte} (h : Holds s bs) (hc : s.rx.count.toNat = bs.length)
    (hmax : s.rx.count < s.params.maxPacketSize) (b : Byte) : Holds (stored s b) (bs ++ [b]) := by
  have hcell (i : Nat) : rxCell (Machine.stored s b) i = if i = bs.length then b else rxCell s i := by
    rw [← hc, ← rxCell_write]
    exact rxCell_congr (s := s.setRxBuf _) (stored_rxBuf_of_lt hmax b) rfl i
  have hold : (List.range bs.length).map (rxCell (Machine.stored s b)) = bs := by
    refine Eq.trans (List.map_congr_left fun i hi => ?_) h
    rw [hcell, if_neg (Nat.ne_of_lt (List.mem_range.mp hi))]
  rw [Holds, List.length_append, List.length_singleton, List.range_succ, List.map_append, hold]
  simp [hcell]

/-- While a byte is to come, the counters are those of the lists. -/
theorem Receiving.counters {topic : Half} {P done : List Byte} {s : State} (h : Receiving topic P done s)
    (hlt : done.length < P.length) : s.rx.count < s.rx.len ∧ s.rx.count < s.params.maxPacketSize ∧
      (s.rx.count + 1#16).toNat = done.length + 1 ∧
      (s.rx.count + 1#16 = s.rx.len ↔ done.length + 1 = P.length) := by
  have hcount := h.count
  have hfits := h.fits
  have hlen : s.rx.len.toNat = P.length := by rw [h.len, BitVec.toNat_ofNat, Nat.mod_eq_of_lt (by omega)]
  have hsucc : (s.rx.count + 1#16).toNat = done.length + 1 := by bv_omega
  exact ⟨by bv_omega, by bv_omega, hsucc, by rw [← BitVec.toNat_inj, hsucc, hlen]⟩

/-- A stored byte with more to come. -/
theorem Receiving.acked_store {topic : Half} {P done : List Byte} {s : State} (h : Receiving topic P done s)
    (hmore : done.length + 1 < P.length) (b : Byte) :
    acked (store b s) = stored s b ∧ Receiving topic P (done ++ [b]) (stored s b) := by
  obtain ⟨hlt, hmax, hsucc, hlast⟩ := h.counters (by omega)
  refine ⟨?_, h.ready, rfl, h.chk, h.topic_eq, h.len, by simpa using hsucc, h.fits, h.holds.stored h.count hmax b⟩
  rw [store_eq, if_neg (BitVec.not_le.mpr hlt), if_neg (mt hlast.mp (by omega)),
    acked_of_not_pending (s := stored s b) h.ready.2]

/-- The last byte completes the frame. -/
theorem Receiving.packetTaken {topic : Half} {done : List Byte} {b : Byte} {s : State}
    (h : Receiving topic (done ++ [b]) done s) : PacketTaken topic (done ++ [b]) s (acked (store b s)) := by
  obtain ⟨hlt, hmax, -, hlast⟩ := h.counters (by simp)
  have hdone := packetTaken_complete (s := stored s b) b h.ready.1 h.fits h.chk h.topic_eq h.len
    (h.holds.stored h.count hmax b)
  rw [store_eq, if_neg (BitVec.not_le.mpr hlt), if_pos (hlast.mpr (by simp)), ← complete_eq]
  exact hdone

/-- A payload that is being received is taken in to its end. -/
theorem Receiving.feeds {topic : Half} {e : Bool} {done Q : List Byte} {s : State}
    (h : Receiving topic (done ++ Q) done s) (hQ : Q ≠ []) (he : TakesEscaped s.params e) :
    ∃ t, Feeds s (escape e Q) t ∧ PacketTaken topic (done ++ Q) s t := by
  induction Q generalizing s done with
  | nil => exact absurd rfl hQ
  | cons b Q ih =>
    have hunit := feeds_escapeByte (b := b) h.ready h.state he
    cases Q with
    | nil => exact ⟨_, hunit.append (.nil _), h.packetTaken⟩
    | cons c Q =>
      obtain ⟨hstored, hnext⟩ := h.acked_store (by simp) b
      rw [List.append_cons] at hnext ⊢
      obtain ⟨t, hfeed, ht⟩ := ih hnext (List.cons_ne_nil c Q) he
      rw [hstored] at hunit
      exact ⟨t, hunit.append hfeed, ht⟩

/-! ## The frame -/

/-- A frame that fits, fed to a parser in WFH, is taken as its PACKET. -/
theorem feeds_encodeFrame {s : State} {e : Bool} (topic : Half) {P : List Byte} (hs : Ready s)
    (hw : s.rx.state = RxState.wfh) (hfits : P.length ≤ s.params.maxPacketSize.toNat)
    (he : TakesEscaped s.params e) :
    ∃ t, Feeds s (encodeFrame e topic P) t ∧ PacketTaken topic P s t := by
  have hheader := feeds_frameHeader hs hw topic P
  have hl : (BitVec.ofNat 16 P.length).toNat = P.length := Nat.mod_eq_of_lt (by omega)
  by_cases hP : P = []
  case pos =>
    subst hP
    let u := s.setRx { lastLenRegs topic [] with len := 0#16, idx := 0#1 }
    have hdone := packetTaken_complete (s := u) (P := []) (loByte 0#16) hs.1 hfits rfl rfl rfl rfl
    rw [List.length_nil, lengthByte_of_zero _ rfl] at hheader
    exact ⟨_, hheader.append (.nil _), hdone⟩
  case neg =>
    have hne : BitVec.ofNat 16 P.length ≠ 0#16 := by
      intro h0
      rw [h0] at hl
      exact hP (List.length_eq_zero_iff.mp hl.symm)
    have hmax : BitVec.ofNat 16 P.length ≤ s.params.maxPacketSize := BitVec.le_def.mpr (hl.trans_le hfits)
    let u := s.setRx { lastLenRegs topic P with
      len := BitVec.ofNat 16 P.length, idx := 0#1, state := RxState.rdata }
    have hu : Receiving topic P [] u := ⟨hs, rfl, rfl, rfl, rfl, rfl, hfits, rfl⟩
    obtain ⟨t, hpayload, ht⟩ := hu.feeds (done := []) hP he
    have haccepted (b : Byte) : lengthByte (BitVec.ofNat 16 P.length) b (s.setRx (lastLenRegs topic P)) = u :=
      lengthByte_of_accepted b rfl hne hmax
    rw [haccepted, acked_of_not_pending (s := u) hs.2] at hheader
    exact ⟨t, hheader.append hpayload, ht⟩

/-- Settles O58: the run that `feeds_encodeFrame` stands for, in each of the settings of R69. -/
theorem frameRoundTrip : Obligations.FrameRoundTrip := by
  intro s e topic P hf hw hp hfits he
  obtain ⟨t, hfeed, ⟨last, hevents⟩, hwfh, hpending, hfault⟩ :=
    feeds_encodeFrame topic ⟨hf, hp⟩ hw hfits (takesEscaped_of_roundTrip he)
  exact ⟨_, last, hfeed.run, hevents, hwfh, hpending, hfault⟩

end Sys2Proof.Machine
end

section
/-! The RX parser (41_rx_parser.md): what each row does on a ready RX half, that a PACKET is dispatched only with the
checksum received (R94), and the bounded return to WFH (R95). -/

namespace Sys2Proof.Machine

/-! ## One byte in WFH (R80 to R82) -/

/-- Settles O7: R79's registers. -/
theorem rxWfhHdrStartsFrame : Obligations.RxWfhHdrStartsFrame :=
  ⟨fun p => decodeRx_wfh p HEADER, fun _ hf hp => rxByteStep_ready hf hp _⟩

/-- Settles O8: 0x97 is row 2 or row 3 of R51 by the END setting. -/
theorem rxWfhEndSignalsBoundary : Obligations.RxWfhEndSignalsBoundary := by
  refine ⟨fun p he => (RxDecoded.wfhEnd he).decodeRx_eq, fun p he => (RxDecoded.wfhOof ENDMARK ?_).decodeRx_eq,
    fun _ hf hp => rxByteStep_ready hf hp _⟩
  exact wfOutOfFrameByte_iff.mpr ⟨by decide, by simp [he]⟩

/-- Settles O9: a byte of neither marker is row 3 of R51. -/
theorem rxWfhOofRaisesOutOfFrameByte : Obligations.RxWfhOofRaisesOutOfFrameByte := by
  refine ⟨fun p b hh he => (RxDecoded.wfhOof b (wfOutOfFrameByte_iff.mpr ⟨hh, ?_⟩)).decodeRx_eq,
    fun _ _ hf hp => rxByteStep_ready hf hp _⟩
  simpa using he

/-! ## The header fields (R83 to R85) -/

/-- Settles O10: the two branches of R83 on `rx_idx`. -/
theorem rxRckAssemblesChecksum : Obligations.RxRckAssemblesChecksum := by
  refine ⟨decodeRx_rck, fun s b hf hp => ⟨fun hi => ?_, fun hi => ?_⟩⟩
  all_goals
    refine (rxByteStep_ready hf hp _).trans ?_
    rw [hi]
    rfl

/-- Settles O11: the two branches of R84 on `rx_idx`. -/
theorem rxRtidAssemblesTopic : Obligations.RxRtidAssemblesTopic := by
  refine ⟨decodeRx_rtid, fun s b hf hp => ⟨fun hi => ?_, fun hi => ?_⟩⟩
  all_goals
    refine (rxByteStep_ready hf hp _).trans ?_
    rw [hi]
    rfl

theorem lengthByte_of_first {s : State} (l : Half) (b : Byte) (hi : s.rx.idx = 0#1) :
    lengthByte l b s = s.setRx { s.rx with len := l, idx := 1#1 } := if_pos hi

/-- R85 and R92: a zero-length frame completes with the event its empty payload decides. -/
theorem lengthByte_zero_eq {s : State} (b : Byte) (hi : s.rx.idx = 1#1) :
    lengthByte 0#16 b s = (s.setEvt (frameEvent [] s.rx.chk s.rx.topic 0#16 b)).setRx RxRegs.reset := by
  rw [lengthByte_of_zero b hi, complete_eq]
  rfl

theorem frameEvent_of_eq {P : List Byte} {chk : Half} (h : checksum P = chk) (topic len : Half) (b : Byte) :
    frameEvent P chk topic len b = ⟨true, EvtType.packet, 0#3, topic, len, len, b⟩ := if_pos h

theorem frameEvent_of_ne {P : List Byte} {chk : Half} (h : checksum P ≠ chk) (topic len : Half) (b : Byte) :
    frameEvent P chk topic len b =
      ⟨true, EvtType.error, ErrorKind.checksumMismatch.code, topic, len, len, b⟩ := if_neg h

/-- Settles O12: the branches of R85; the checksum of no bytes is its seeds. -/
theorem rxRlenChecksLength : Obligations.RxRlenChecksLength := by
  refine ⟨decodeRx_rlen, fun s b l hf hp hl => ?_⟩
  have hx : exec (.rxRlen b) s = .next (lengthByte l b s) := by
    rw [hl]
    exact rxByteStep_ready hf hp _
  have hempty : checksum [] = 0xFFFF#16 := rfl
  rw [hx]
  refine ⟨fun hi => ?first, fun hi hlong => ?tooLong, fun hi h0 hchk => ?packet, fun hi h0 hchk => ?mismatch,
    fun hi h0 hmax => ?payload⟩
  case first => rw [lengthByte_of_first l b hi]; rfl
  case tooLong => rw [lengthByte_of_too_long b hi hlong]; rfl
  case packet => rw [h0, lengthByte_zero_eq b hi, frameEvent_of_eq (hempty.trans hchk.symm)]; rfl
  case mismatch => rw [h0, lengthByte_zero_eq b hi, frameEvent_of_ne (hempty.trans_ne hchk.symm)]; rfl
  case payload => rw [lengthByte_of_accepted b hi h0 hmax]; rfl

/-! ## The payload (R86 to R89, R91) -/

/-- Settles O13: R86 moves the state and nothing else. -/
theorem rxRdataEscEntersResc : Obligations.RxRdataEscEntersResc :=
  ⟨fun _ => RxDecoded.rdataEsc.decodeRx_eq, fun _ hf hp => rxByteStep_ready hf hp _⟩

/-- Settles O14: R87's record and R79's registers. -/
theorem rxRdataHdrResynchronizes : Obligations.RxRdataHdrResynchronizes :=
  ⟨fun _ => RxDecoded.rdataHdr.decodeRx_eq, fun _ hf hp => rxByteStep_ready hf hp _⟩

theorem store_of_guard {s : State} (b : Byte) (h : s.rx.len ≤ s.rx.count) :
    store b s = (s.setEvt ⟨true, EvtType.error, 1#3, s.rx.topic, s.rx.len, s.rx.count, b⟩).setRx
      RxRegs.reset := by
  rw [store_eq, if_pos h]

theorem store_of_more {s : State} (b : Byte) (hlt : s.rx.count < s.rx.len)
    (hmore : s.rx.count + 1#16 ≠ s.rx.len) : store b s = stored s b := by
  rw [store_eq, if_neg (BitVec.not_le.mpr hlt), if_neg hmore]

theorem store_of_last {s : State} (b : Byte) (hlt : s.rx.count < s.rx.len)
    (hlast : s.rx.count + 1#16 = s.rx.len) :
    store b s = ((stored s b).setEvt (completionEvt (stored s b) b)).setRx RxRegs.reset := by
  rw [store_eq, if_neg (BitVec.not_le.mpr hlt), if_pos hlast]

theorem stored_of_lt {s : State} (h : s.rx.count < s.params.maxPacketSize) (b : Byte) :
    stored s b = (s.setRxBuf (Memory.write s.rxBuf s.rx.count.toNat b)).setRx
      { s.rx with state := RxState.rdata, count := s.rx.count + 1#16 } := by
  rw [stored, rxWrite_of_lt h]

/-- Settles O15: the three cases of R91, the last with R92, and the memory law of the write. -/
theorem rxRdataByteStores : Obligations.RxRdataByteStores := by
  refine ⟨fun p b hesc hh => (RxDecoded.rdataByte b (wfPayloadByte_iff.mpr ⟨hesc, hh⟩)).decodeRx_eq, ?_⟩
  rintro s b m hf hp rfl
  rw [exec_rxRdataByte hf hp]
  refine ⟨fun h => ?guard, fun hlt hmore hcell => ?more, fun hlt hlast hmax => ?last,
    Memory.read_write_self _ _ b, fun i hi => Memory.read_write_of_ne hi b⟩
  case guard => rw [store_of_guard b h]; rfl
  case more => rw [store_of_more b hlt hmore, stored_of_lt hcell]; rfl
  case last =>
    have hcell : s.rx.count < s.params.maxPacketSize := by bv_omega
    rw [store_of_last b hlt hlast, stored_of_lt hcell]
    rfl

/-- R89, a byte the strict policy rejects, on a ready RX half. -/
theorem exec_rxResc_strict {s : State} {b : Byte} (hf : s.rxFault = none) (hp : s.evt.pending = false)
    (hs : s.params.strictEscape = true) (hr : isReserved s.params.endMarker b = false) :
    exec (.rxResc b) s =
      .next (enterWfh (raiseError .unknownError s.rx.topic s.rx.len s.rx.count b s)) := by
  refine (rxByteStep_ready hf hp _).trans (congrArg _ (if_pos ?_))
  simp [hs, hr]

/-- Settles O16: R89's test, and past it the cases of R88. -/
theorem rxRescStoresLiterallyOrRejects : Obligations.RxRescStoresLiterallyOrRejects := by
  refine ⟨decodeRx_resc, fun s b m hf hp hm =>
    ⟨fun hs hr => exec_rxResc_strict hf hp hs hr, fun hliteral => ?_⟩⟩
  obtain ⟨hguard, hmore, hlast, -⟩ := rxRdataByteStores.2 s b m hf hp hm
  rw [exec_rxResc_literal hliteral]
  exact ⟨hguard, hmore, hlast⟩

/-! ## The reserved states (R90) -/

/-- An RxByte step with a fault recorded stops with it. -/
theorem rxByteStep_faulted {s : State} {f : Fault} (hf : s.rxFault = some f) (hp : s.evt.pending = false)
    (r : Result) : rxByteStep s r = .fault f := by
  simp [rxByteStep, onRxHalf, hf, rxReady, hp]

/-- Settles O18: the row records the fault, and the next one meets it. -/
theorem rxRsvdRecordsReservedParserState : Obligations.RxRsvdRecordsReservedParserState :=
  ⟨decodeRx_rsvd, fun s _ _ _ hf hp => ⟨rxByteStep_ready hf hp _,
    rxByteStep_faulted (s := { s with rxFault := some .reservedParserState }) rfl hp _⟩⟩

/-! ## Dispatch is fail-closed (R92, R94) -/

/-- The parser has just dispatched the PACKET `(topic, payload)`: the checksum of the payload that the consumer
reads is `chk`. -/
structure Dispatched (chk topic : Half) (t : State) : Prop where
  checksum_eq : checksum (payloadView t) = chk
  count_eq : t.evt.count = t.evt.len
  topic_eq : t.evt.topic = topic
  len_le : t.evt.len ≤ t.params.maxPacketSize
  rx_eq : t.rx = RxRegs.reset

theorem error_ne_packet : EvtType.error ≠ EvtType.packet := by decide

theorem boundary_ne_packet : EvtType.boundary ≠ EvtType.packet := by decide

theorem checksum_of_frameEvent_packet {P : List Byte} {chk topic len : Half} {b : Byte}
    (h : (frameEvent P chk topic len b).type = EvtType.packet) : checksum P = chk := by
  by_contra hne
  rw [frameEvent_of_ne hne] at h
  exact absurd h error_ne_packet

/-- A frame that completes with a PACKET, its payload in the buffer. -/
theorem dispatched_of_frameEvent {s : State} {P : List Byte} {chk topic len : Half} {b : Byte}
    (hP : rxBytes s len = P) (hmax : len ≤ s.params.maxPacketSize)
    (h : (frameEvent P chk topic len b).type = EvtType.packet) :
    Dispatched chk topic ((s.setEvt (frameEvent P chk topic len b)).setRx RxRegs.reset) := by
  have hchk := checksum_of_frameEvent_packet h
  rw [frameEvent_of_eq hchk]
  let t := (s.setEvt ⟨true, EvtType.packet, 0#3, topic, len, len, b⟩).setRx RxRegs.reset
  have hview : payloadView t = P := (payloadView_eq (s := t) hmax).trans hP
  exact ⟨by rw [hview, hchk], rfl, rfl, hmax, rfl⟩

/-- Of a received byte's effects only the two that complete a frame load a PACKET. -/
theorem RxEffect.dispatched {s t : State} {b : Byte} (h : RxEffect s b t) (hinv : RxInv s)
    (hp : s.evt.pending = false) (hq : t.evt.pending = true) (hty : t.evt.type = EvtType.packet) :
    Dispatched s.rx.chk s.rx.topic t := by
  cases h with
  | start | header | payload | escape | store | reserved => exact absurd (hp.symm.trans hq) (by decide)
  | boundary => exact absurd hty boundary_ne_packet
  | outOfFrame | tooLong | resync | strict | guard => exact absurd hty error_ne_packet
  | empty => exact dispatched_of_frameEvent rfl (by bv_omega) hty
  | finish hs =>
    obtain ⟨-, hmax⟩ := hinv.payload_bound hs
    exact dispatched_of_frameEvent (s := stored s b) rfl hmax hty

/-- Of the actions only RxByte loads a PACKET. -/
theorem takeAction_dispatched {s t : State} {a : Action} (hinv : RxInv s) (h : takeAction a s = .next t)
    (hp : s.evt.pending = false) (hq : t.evt.pending = true) (hty : t.evt.type = EvtType.packet) :
    Dispatched s.rx.chk s.rx.topic t := by
  have kept (he : t.evt = s.evt) : Dispatched s.rx.chk s.rx.topic t := by
    rw [he, hp] at hq
    cases hq
  obtain (rfl | rfl | rfl | ⟨addr, rfl⟩) | htx | rfl := a.half_or_reset
  · obtain ⟨-, rfl⟩ | ⟨b, bs, -, hp, h⟩ := takeAction_rxByte_next h
    · exact kept rfl
    · exact (rxRow_next (s := tookByte s) hp h).2.dispatched (hinv.congr rfl rfl rfl rfl) hp hq hty
  · obtain ⟨hp', -⟩ | ⟨-, rfl⟩ := evtAck_next h
    · exact absurd (hp.symm.trans hp') (by decide)
    · exact kept rfl
  · obtain ⟨-, rfl⟩ | ⟨-, -, rfl⟩ := timeout_next h
    · exact kept rfl
    · exact absurd hty error_ne_packet
  · cases h
    exact kept rfl
  · obtain ⟨-, -, he, -⟩ := takeAction_rxHalfKept htx h
    exact kept he
  · cases h
    cases hq

/-- Settles O54: a step that loads a PACKET is an action that does. -/
theorem packetOnlyWithMatchingChecksum : Obligations.PacketOnlyWithMatchingChecksum := by
  intro s t hinv h hp hq hty
  obtain ⟨-, rfl⟩ | ⟨a, -, h⟩ := step_next h
  · exact absurd (hp.symm.trans hq) (by decide)
  obtain ⟨hchk, hcount, htopic, hlen, hrx⟩ := takeAction_dispatched (dropAction_inv hinv).rx h hp hq hty
  rw [(takeAction_sameBlock h).1] at hlen
  exact ⟨hchk, hcount, htopic, hlen, hrx⟩

/-! ## The bounded return to WFH (R95) -/

/-- How many bytes other than 0x99 the parser takes at most before it is in WFH, in a block with
MAX_PACKET_SIZE `max`: the header bytes to come, then two for each payload byte that may come, its ESCAPE and
itself. -/
def bytesToWfh (max : Nat) (r : RxRegs) : Nat :=
  if r.state = RxState.wfh then 0
  else if r.state = RxState.rck then 6 + 2 * max - r.idx.toNat
  else if r.state = RxState.rtid then 4 + 2 * max - r.idx.toNat
  else if r.state = RxState.rlen then 2 + 2 * max - r.idx.toNat
  else if r.state = RxState.rdata then 2 * (r.len.toNat - r.count.toNat)
  else 2 * (r.len.toNat - r.count.toNat) - 1

section
variable {max : Nat} {r : RxRegs}

theorem bytesToWfh_wfh (h : r.state = RxState.wfh) : bytesToWfh max r = 0 := if_pos h

theorem bytesToWfh_rck (h : r.state = RxState.rck) : bytesToWfh max r = 6 + 2 * max - r.idx.toNat := by
  simp +decide [bytesToWfh, h]

theorem bytesToWfh_rtid (h : r.state = RxState.rtid) : bytesToWfh max r = 4 + 2 * max - r.idx.toNat := by
  simp +decide [bytesToWfh, h]

theorem bytesToWfh_rlen (h : r.state = RxState.rlen) : bytesToWfh max r = 2 + 2 * max - r.idx.toNat := by
  simp +decide [bytesToWfh, h]

theorem bytesToWfh_rdata (h : r.state = RxState.rdata) :
    bytesToWfh max r = 2 * (r.len.toNat - r.count.toNat) := by
  simp +decide [bytesToWfh, h]

theorem bytesToWfh_resc (h : r.state = RxState.resc) :
    bytesToWfh max r = 2 * (r.len.toNat - r.count.toNat) - 1 := by
  simp +decide [bytesToWfh, h]

end

theorem bytesToWfh_payload {max : Nat} {r : RxRegs} (h : payloadState r.state = true) :
    2 * (r.len.toNat - r.count.toNat) - 1 ≤ bytesToWfh max r ∧
      bytesToWfh max r ≤ 2 * (r.len.toNat - r.count.toNat) := by
  obtain e | e := payloadState_iff.mp h
  · rw [bytesToWfh_rdata e]
    omega
  · rw [bytesToWfh_resc e]
    omega

theorem headerState_iff {st : BitVec 3} :
    headerState st = true ↔ st = RxState.rck ∨ st = RxState.rtid ∨ st = RxState.rlen := by
  simp [headerState, or_assoc]

theorem bytesToWfh_header {max : Nat} {r : RxRegs} (h : headerState r.state = true) :
    0 < bytesToWfh max r ∧ bytesToWfh max r ≤ 6 + 2 * max := by
  have hi : r.idx.toNat < 2 := r.idx.isLt
  obtain e | e | e := headerState_iff.mp h
  · rw [bytesToWfh_rck e]
    omega
  · rw [bytesToWfh_rtid e]
    omega
  · rw [bytesToWfh_rlen e]
    omega

/-- R95's worst case is RCK with no byte of the field received. -/
theorem RxInv.bytesToWfh_le {s : State} (h : RxInv s) :
    bytesToWfh s.params.maxPacketSize.toNat s.rx ≤ 6 + 2 * s.params.maxPacketSize.toNat := by
  obtain e | e | e := parserState_cases h.state_legal
  · rw [bytesToWfh_wfh e]
    omega
  · exact (bytesToWfh_header e).2
  · obtain ⟨-, hmax⟩ := h.payload_bound e
    have hle : s.rx.len.toNat ≤ s.params.maxPacketSize.toNat := hmax
    have hbytes := (bytesToWfh_payload (max := s.params.maxPacketSize.toNat) e).2
    omega

/-- With no byte to go the parser is there. -/
theorem RxInv.wfh_of_bytesToWfh {s : State} (h : RxInv s)
    (h0 : bytesToWfh s.params.maxPacketSize.toNat s.rx = 0) : s.rx.state = RxState.wfh := by
  obtain e | e | e := parserState_cases h.state_legal
  · exact e
  · exact absurd h0 (bytesToWfh_header e).1.ne'
  · obtain ⟨hlt, -⟩ := h.payload_bound e
    have hcount : s.rx.count.toNat < s.rx.len.toNat := hlt
    have hbytes := (bytesToWfh_payload (max := s.params.maxPacketSize.toNat) e).1
    omega

/-- A header byte brings the parser one byte nearer. -/
theorem HeaderStep.bytesToWfh_le {max : Nat} {r r' : RxRegs} {b : Byte} (h : HeaderStep r b r') :
    bytesToWfh max r' ≤ bytesToWfh max r - 1 := by
  cases h with
  | chkFirst e hi | chkSecond e hi | topicFirst e hi | topicSecond e hi | lenFirst e hi =>
    simp +decide [bytesToWfh, e, hi]

/-- Every byte but 0x99 brings the parser one byte nearer, or finds it in WFH and leaves it there. -/
theorem RxEffect.bytesToWfh_le {s t : State} {b : Byte} (h : RxEffect s b t) (hinv : RxInv s)
    (hb : b ≠ HEADER) : bytesToWfh s.params.maxPacketSize.toNat t.rx ≤
      bytesToWfh s.params.maxPacketSize.toNat s.rx - 1 := by
  cases h with
  | start _ e | resync _ e => exact absurd e hb
  | boundary e | outOfFrame e => exact (bytesToWfh_wfh e).trans_le (Nat.zero_le _)
  | header r hr => exact hr.bytesToWfh_le
  | tooLong | empty | strict | guard | finish => exact (bytesToWfh_wfh rfl).trans_le (Nat.zero_le _)
  | payload e hi _ hle =>
    have hmax : (shiftIn s.rx.len b).toNat ≤ s.params.maxPacketSize.toNat := hle
    rw [bytesToWfh_rlen e, hi, bytesToWfh_rdata rfl]
    show 2 * ((shiftIn s.rx.len b).toNat - s.rx.count.toNat) ≤ 2 + 2 * s.params.maxPacketSize.toNat - 1 - 1
    omega
  | escape e =>
    rw [bytesToWfh_rdata e, bytesToWfh_resc rfl]
    exact le_rfl
  | store hs _ hlt =>
    have hbytes := (bytesToWfh_payload (max := s.params.maxPacketSize.toNat) hs).1
    have hsucc : (s.rx.count + 1#16).toNat = s.rx.count.toNat + 1 := by bv_omega
    rw [bytesToWfh_rdata rfl]
    show 2 * (s.rx.len.toNat - (s.rx.count + 1#16).toNat) ≤ _
    omega
  | reserved e => exact absurd e (BitVec.not_lt.mpr hinv.state_legal)

/-- On a ready RX half every rx row answers a next state (60_exceptions.md R120). -/
theorem exec_completes_of_rxDecoded {p : Params} {w : BitVec 11} {i : Instr} (h : RxDecoded p w i) {s : State}
    (hf : s.rxFault = none) (hp : s.evt.pending = false) : ∃ t, exec i s = .next t := by
  cases h <;> exact ⟨_, rxByteStep_ready hf hp _⟩

/-- The acknowledge leaves no event pending, and the parser as it is. -/
theorem acked_pending (s : State) : (acked s).evt.pending = false := by
  unfold acked
  split_ifs with h
  · rfl
  · simpa using h

theorem acked_rx (s : State) : (acked s).rx = s.rx := by
  unfold acked
  split_ifs <;> rfl

theorem acked_params (s : State) : (acked s).params = s.params := by
  unfold acked
  split_ifs <;> rfl

theorem RxInv.acked {s : State} (h : RxInv s) : RxInv (acked s) := by
  unfold Machine.acked
  split_ifs
  · exact h.congr rfl rfl rfl rfl
  · exact h

/-- Acknowledged bytes other than 0x99 each bring the parser one byte nearer to WFH. -/
theorem feeds_towards_wfh {s : State} {bytes : List Byte} (hinv : RxInv s) (hp : s.evt.pending = false)
    (hbytes : ∀ b ∈ bytes, b ≠ HEADER) : ∃ t, Feeds s bytes t ∧ RxInv t ∧ t.evt.pending = false ∧
      bytesToWfh t.params.maxPacketSize.toNat t.rx ≤
        bytesToWfh s.params.maxPacketSize.toNat s.rx - bytes.length := by
  induction bytes generalizing s with
  | nil => exact ⟨s, .nil s, hinv, hp, le_rfl⟩
  | cons b bs ih =>
    obtain ⟨hb, hbs⟩ := List.forall_mem_cons.mp hbytes
    have hrow := rxDecoded_decodeRx s.params (rxWord s.rx.state b)
    obtain ⟨t, ht⟩ := exec_completes_of_rxDecoded hrow hinv.no_fault hp
    have heff := (rxRow_next hp ht).2
    obtain ⟨u, hfeed, hu, hpu, hle⟩ := ih (heff.rxInv hinv).acked (acked_pending t) hbs
    have hone := heff.bytesToWfh_le hinv hb
    rw [acked_rx, acked_params, heff.sameBlock.1] at hle
    refine ⟨u, .cons hp ht hfeed, hu, hpu, ?_⟩
    rw [List.length_cons]
    omega

/-- Settles O60: as many bytes as R95 says bring the parser to WFH from its worst case. -/
theorem boundedReturnToWfh : Obligations.BoundedReturnToWfh := by
  intro s bytes hinv hp hbytes hlen
  obtain ⟨t, hfeed, ht, hpt, hle⟩ := feeds_towards_wfh hinv.rx hp hbytes
  have hworst := hinv.rx.bytesToWfh_le
  exact ⟨_, hfeed.run, ht.wfh_of_bytesToWfh (by omega), hpt⟩

end Sys2Proof.Machine
end

section
/-! The TX serializer (42_tx_serializer.md): what each command and each phase does on a TX half without a fault, that
emitted and remaining bytes are conserved, and the run of a SEND_FRAME (R115). -/

namespace Sys2Proof.Machine

/-! ## Commands (R101 to R103) -/

/-- Settles O21: R101's registers. -/
theorem sendFrameLoadsSerializer : Obligations.SendFrameLoadsSerializer :=
  ⟨fun _ hop => if_pos hop, fun _ _ _ hf hp => txCmdStep_idle hf hp _⟩

/-- Settles O22: the two branches of R102 on the END setting. -/
theorem sendEndStartsMarker : Obligations.SendEndStartsMarker := by
  refine ⟨fun _ => decodeTxCmd_of_op_one, fun s hf hp => ⟨fun he => ?on, fun he => ?off⟩⟩
  case on => exact (txCmdStep_idle hf hp _).trans (if_pos he)
  case off => exact (txCmdStep_idle hf hp _).trans (if_neg (by simp [he]))

/-- Settles O23: neither row is enabled, and the step transfers no command. -/
theorem commandWaitsWhileBusy : Obligations.CommandWaitsWhileBusy := by
  intro s hp
  obtain ⟨-, hwait, -⟩ := portsHoldWhatIsNotTaken s
  exact ⟨fun _ _ => txCmdStep_busy hp _, txCmdStep_busy hp _,
    fun ha => ⟨dropAction s, hwait ha (.inl hp), rfl, rfl⟩⟩

/-! ## The emission phases (R104 to R114) -/

/-- A TxEmit row in a phase that is not IDLE's code. -/
theorem txEmitStep_of_phase {s : State} {ph : BitVec 4} (hf : s.txFault = none) (hp : s.tx.phase = ph)
    (hne : ph ≠ TxPhase.idle) (r : Result) : txEmitStep s r = r :=
  txEmitStep_valid hf (hp.trans_ne hne) r

/-- A TxEmit step with a fault recorded stops with it. -/
theorem txEmitStep_faulted {s : State} {f : Fault} (hf : s.txFault = some f) (hp : s.tx.phase ≠ TxPhase.idle)
    (r : Result) : txEmitStep s r = .fault f := by
  simp [txEmitStep, onTxHalf, hf, txValid, hp]

/-- Settles O24: each header row emits its byte and sets the next phase. -/
theorem txHeaderPhasesEmitHeader : Obligations.TxHeaderPhasesEmitHeader := by
  refine ⟨⟨rfl, rfl, rfl, rfl, rfl, rfl, rfl⟩, fun s hf => ?_⟩
  refine ⟨?_, ?_, ?_, ?_, ?_, ?_, ?_⟩ <;> exact fun hp => txEmitStep_of_phase hf hp (by decide) _

/-- Settles O25: the two branches of R111 on the payload byte. -/
theorem txDataEmitsPayloadOrEscape : Obligations.TxDataEmitsPayloadOrEscape := by
  refine ⟨rfl, fun s hf hp => ⟨fun hr => ?reserved, fun hr => ?plain⟩⟩
  case reserved =>
    exact (txEmitStep_of_phase hf hp (by decide) _).trans (congrArg Host.Outcome.next (if_pos hr))
  case plain =>
    exact (txEmitStep_of_phase hf hp (by decide) _).trans (congrArg Host.Outcome.next (if_neg (by simp [hr])))

/-- Settles O26: R112 counts the held byte. -/
theorem txDataEscEmitsHeldByte : Obligations.TxDataEscEmitsHeldByte :=
  ⟨rfl, fun _ hf hp => txEmitStep_of_phase hf hp (by decide) _⟩

/-- Settles O27: R113's byte and phase. -/
theorem txEndmkEmitsMarker : Obligations.TxEndmkEmitsMarker :=
  ⟨rfl, fun _ hf hp => txEmitStep_of_phase hf hp (by decide) _⟩

/-- Settles O28: each row records the fault, and the next one meets it. -/
theorem txRsvdRecordsReservedTxPhase : Obligations.TxRsvdRecordsReservedTxPhase := by
  refine ⟨rfl, decodeTxEmit_rsvdC, fun s lo lo' hf => ⟨fun hp => ?rowB, fun hp => ?rowC⟩⟩
  all_goals
    have hne : s.tx.phase ≠ TxPhase.idle := by bv_omega
    exact ⟨txEmitStep_valid hf hne _,
      txEmitStep_faulted (s := { s with txFault := some .reservedTxPhase }) rfl hne _⟩

/-! ## The bytes left to emit, by phase -/

theorem bytesToEmit_of_header {s : State} (h : headerPhase s.tx.phase = true) :
    bytesToEmit s = (txHeader s).drop (s.tx.phase.toNat - 1) ++ escapedPay s 0 s.tx.len.toNat := if_pos h

theorem bytesToEmit_of_idle {s : State} (h : s.tx.phase = TxPhase.idle) : bytesToEmit s = [] := by
  rw [bytesToEmit, h]
  rfl

theorem bytesToEmit_of_data {s : State} (h : s.tx.phase = TxPhase.data) :
    bytesToEmit s = escapedPay s s.tx.idx.toNat (s.tx.len.toNat - s.tx.idx.toNat) := by
  rw [bytesToEmit, h]
  rfl

theorem bytesToEmit_of_dataEsc {s : State} (h : s.tx.phase = TxPhase.dataEsc) : bytesToEmit s =
    s.tx.hold :: escapedPay s (s.tx.idx.toNat + 1) (s.tx.len.toNat - s.tx.idx.toNat - 1) := by
  rw [bytesToEmit, h]
  rfl

theorem bytesToEmit_of_endmk {s : State} (h : s.tx.phase = TxPhase.endmk) : bytesToEmit s = [ENDMARK] := by
  rw [bytesToEmit, h]
  rfl

/-- Between two payload bytes: IDLE once `tx_idx` has reached `tx_len`, DATA before (R110 to R112). -/
theorem bytesToEmit_of_payload {s : State}
    (h : s.tx.phase = if s.tx.idx = s.tx.len then TxPhase.idle else TxPhase.data) :
    bytesToEmit s = escapedPay s s.tx.idx.toNat (s.tx.len.toNat - s.tx.idx.toNat) := by
  split_ifs at h with hdone
  · rw [bytesToEmit_of_idle h, hdone, Nat.sub_self]
    rfl
  · exact bytesToEmit_of_data h

theorem escapedPay_succ (s : State) (i n : Nat) : escapedPay s i (n + 1) =
    escapeByte s.params.endMarker (payByte s i) ++ escapedPay s (i + 1) n := rfl

/-- The escaped payload from `tx_idx` on, while a byte is left. -/
theorem escapedPay_idx {s : State} (h : s.tx.idx < s.tx.len) :
    escapedPay s s.tx.idx.toNat (s.tx.len.toNat - s.tx.idx.toNat) =
      escapeByte s.params.endMarker (payByte s s.tx.idx.toNat) ++
        escapedPay s (s.tx.idx.toNat + 1) (s.tx.len.toNat - s.tx.idx.toNat - 1) := by
  rw [← escapedPay_succ]
  congr 1
  bv_omega

theorem bytesToEmit_nextPayloadByte {s : State} (h : s.tx.idx < s.tx.len) : bytesToEmit (nextPayloadByte s) =
    escapedPay s (s.tx.idx.toNat + 1) (s.tx.len.toNat - s.tx.idx.toNat - 1) := by
  have hi : (s.tx.idx + 1#16).toNat = s.tx.idx.toNat + 1 := by bv_omega
  rw [bytesToEmit_of_payload rfl, nextPayloadByte_tx, hi, Nat.sub_sub]
  rfl

/-- What is left to emit depends on the parameters, the serializer's registers and PAY below `tx_len`. -/
theorem bytesToEmit_congr {s t : State} (hp : t.params = s.params) (ht : t.tx = s.tx)
    (hpay : ∀ i < s.tx.len.toNat, payByte t i = payByte s i) : bytesToEmit t = bytesToEmit s := by
  have hesc (i n : Nat) (hn : n ≤ s.tx.len.toNat - i) : escapedPay t i n = escapedPay s i n := by
    rw [escapedPay, escapedPay, hp]
    refine congrArg _ (List.map_congr_left fun j hj => hpay j ?_)
    have := List.mem_range'_1.mp hj
    omega
  have hhdr : txHeader t = txHeader s := by rw [txHeader, ht]; rfl
  rw [bytesToEmit, bytesToEmit, ht, hhdr, hesc 0 s.tx.len.toNat (Nat.le_refl _),
    hesc s.tx.idx.toNat _ (Nat.le_refl _), hesc (s.tx.idx.toNat + 1) _ (by omega)]

/-! ## Conservation (R115) -/

/-- The next header phase sends the next header byte. -/
theorem headerPhase_succ_toNat {ph : BitVec 4} (h : headerPhase ph = true) :
    (ph + 1#4).toNat - 1 = ph.toNat - 1 + 1 := by
  revert ph
  decide

/-- An emission of a run takes the first of the bytes left to emit. -/
theorem TxEffect.takes_first {s t : State} (h : TxEffect s t) (hinv : TxInv s) :
    ∃ b, t.obs.txBytes = s.obs.txBytes ++ [b] ∧ bytesToEmit s = b :: bytesToEmit t := by
  cases h with
  | header ph b hh hne hph hb =>
    subst hph
    obtain ⟨hlt, rfl⟩ := List.getElem?_eq_some_iff.mp hb
    refine ⟨_, rfl, ?_⟩
    rw [bytesToEmit_of_header hh, bytesToEmit_of_header (s := setPhase _ _) (headerPhase_succ hh hne),
      List.drop_eq_getElem_cons hlt, setPhase_tx, headerPhase_succ_toNat hh]
    rfl
  | lastHeader e =>
    have hi : s.tx.idx = 0#16 := hinv.header_idx (by rw [e]; rfl)
    have hdone : s.tx.len = 0#16 ↔ s.tx.idx = s.tx.len := by rw [hi, eq_comm]
    refine ⟨loByte s.tx.len, rfl, ?_⟩
    rw [bytesToEmit_of_header (by rw [e]; rfl), e,
      bytesToEmit_of_payload (by simp only [setPhase_tx, emit_tx, hdone])]
    simp only [setPhase_tx, emit_tx, hi]
    rfl
  | escape v e hv hr =>
    subst hv
    refine ⟨ESCAPE, rfl, ?_⟩
    rw [bytesToEmit_of_data e, escapedPay_idx (hinv.payload_bound (.inl e)), escapeByte, if_pos hr,
      bytesToEmit_of_dataEsc rfl]
    rfl
  | plain v e hv hr =>
    subst hv
    have hi := hinv.payload_bound (.inl e)
    refine ⟨_, rfl, ?_⟩
    rw [bytesToEmit_of_data e, escapedPay_idx hi, escapeByte, if_neg (by simp [hr]),
      bytesToEmit_nextPayloadByte (s := emit _ s) hi]
    rfl
  | escaped e =>
    refine ⟨s.tx.hold, rfl, ?_⟩
    rw [bytesToEmit_of_dataEsc e, bytesToEmit_nextPayloadByte (s := emit _ s) (hinv.payload_bound (.inr e))]
    rfl
  | marker e => exact ⟨ENDMARK, rfl, by rw [bytesToEmit_of_endmk e, bytesToEmit_of_idle rfl]⟩
  | reserved e => exact absurd e (BitVec.not_lt.mpr hinv.phase_legal)

/-- What has been emitted, followed by what is left to emit. -/
def emittedAndRemaining (s : State) : List Byte := s.obs.txBytes ++ bytesToEmit s

theorem emittedAndRemaining_congr {s t : State} (hobs : t.obs.txBytes = s.obs.txBytes)
    (hbytes : bytesToEmit t = bytesToEmit s) : emittedAndRemaining t = emittedAndRemaining s := by
  rw [emittedAndRemaining, hobs, hbytes, emittedAndRemaining]

theorem TxEffect.emittedAndRemaining {s t : State} (h : TxEffect s t) (hinv : TxInv s) :
    emittedAndRemaining t = emittedAndRemaining s := by
  obtain ⟨b, hobs, hbytes⟩ := h.takes_first hinv
  rw [Machine.emittedAndRemaining, Machine.emittedAndRemaining, hobs, hbytes, List.append_assoc,
    List.singleton_append]

/-- A PayWrite that keeps the stability duty does not touch what is left to emit (20_memory.md R35). -/
theorem bytesToEmit_payWrite {s : State} {a : Half} (ha : s.tx.phase = TxPhase.idle ∨ s.tx.len ≤ a) (v : Byte) :
    bytesToEmit (s.setPay (Memory.write s.pay a.toNat v)) = bytesToEmit s := by
  obtain hp | hle := ha
  · rw [bytesToEmit_of_idle hp, bytesToEmit_of_idle (s := s.setPay (Memory.write s.pay a.toNat v)) hp]
  · refine bytesToEmit_congr rfl rfl fun i hi => ?_
    rw [payByte_write, if_neg (by bv_omega)]

/-- Every action but a Reset, an accepted command and a PayWrite into the frame being sent conserves the bytes. -/
theorem takeAction_emittedAndRemaining {s t : State} {a : Action} (hinv : TxInv s)
    (h : takeAction a s = .next t) (hreset : a ≠ .reset) (hcmd : a = .txCmd → s.tx.phase ≠ TxPhase.idle)
    (hpay : ∀ addr v, a = .payWrite addr v → s.tx.phase = TxPhase.idle ∨ s.tx.len ≤ addr) :
    emittedAndRemaining t = emittedAndRemaining s := by
  obtain hrx | (rfl | rfl | ⟨addr, v, rfl⟩) | rfl := a.half_or_reset
  · obtain ⟨htx, -, hmem, hobs, -⟩ := takeAction_txHalfKept hrx h
    obtain ⟨hparams, hpower⟩ := takeAction_sameBlock h
    exact emittedAndRemaining_congr hobs
      (bytesToEmit_congr hparams htx fun i _ => payByte_congr hmem hpower i)
  · rw [takeAction_txCmd_none (.inr (hcmd rfl))] at h
    cases h
    rfl
  · obtain ⟨-, rfl⟩ | ⟨i, hp, hi, h⟩ := takeAction_txEmit_next h
    · rfl
    · exact (txRow_next hp hi h).2.emittedAndRemaining hinv
  · obtain ⟨-, -, hkept, -⟩ := payWriteStoresByteAndGuardsSend s addr v _ rfl
    have hduty := hpay addr v rfl
    rw [takeAction_payWrite, hkept hduty] at h
    cases h
    exact emittedAndRemaining_congr rfl (bytesToEmit_payWrite hduty v)
  · exact absurd rfl hreset

/-- Settles O56: a step waits or takes one action, and each action allowed conserves the bytes. -/
theorem emittedAndRemainingBytesConserved : Obligations.EmittedAndRemainingBytesConserved := by
  intro s t hinv _ h hreset hcmd hpay
  obtain ⟨-, rfl⟩ | ⟨a, ha, h⟩ := step_next h
  · rfl
  simp only [ha, ne_eq, Option.some.injEq] at hreset hcmd hpay
  exact takeAction_emittedAndRemaining (s := dropAction s) (dropAction_inv hinv).tx h hreset hcmd hpay

/-! ## The run of a SEND_FRAME (R115) -/

theorem TxEffect.env {s t : State} (h : TxEffect s t) : t.env = s.env := by
  cases h <;> rfl

/-- In the phases a run reaches, an emission records no fault. -/
theorem TxEffect.txFault {s t : State} (h : TxEffect s t) (hp : s.tx.phase ≤ TxPhase.endmk) :
    t.txFault = s.txFault := by
  cases h with
  | reserved e => exact absurd e (BitVec.not_lt.mpr hp)
  | _ => rfl

/-- With no fault recorded, a TxEmit in a phase other than IDLE takes the first of the bytes left. -/
theorem takeAction_txEmit_takes_first {s : State} (hinv : TxInv s) (hf : s.txFault = none)
    (hp : s.tx.phase ≠ TxPhase.idle) : ∃ t b, takeAction .txEmit s = .next t ∧ TxInv t ∧ t.txFault = none ∧
      t.env = s.env ∧ t.obs.txBytes = s.obs.txBytes ++ [b] ∧ bytesToEmit s = b :: bytesToEmit t := by
  obtain ⟨t, ht, he⟩ := takeAction_txEmit_completes hf hp
  obtain ⟨b, hobs, hbytes⟩ := he.takes_first hinv
  exact ⟨t, b, ht, he.txInv hinv, (he.txFault hinv.phase_legal).trans hf, he.env, hobs, hbytes⟩

/-- In a state of a run without a fault, nothing is left to emit only in IDLE. -/
theorem idle_of_bytesToEmit_nil {s : State} (hinv : TxInv s) (hf : s.txFault = none)
    (h : bytesToEmit s = []) : s.tx.phase = TxPhase.idle := by
  by_contra hp
  obtain ⟨t, b, -, -, -, -, -, hbytes⟩ := takeAction_txEmit_takes_first hinv hf hp
  cases h.symm.trans hbytes

/-- As many TxEmit steps as bytes are left emit exactly those bytes and end in IDLE. -/
theorem run_txEmit {s : State} {bs : List Byte} (hinv : TxInv s) (hf : s.txFault = none)
    (hbs : bytesToEmit s = bs) (hsched : s.env.sched = List.replicate bs.length .txEmit) :
    ∃ t, Sys2Proof.core.run bs.length s = .next t ∧ t.tx.phase = TxPhase.idle ∧
      t.obs.txBytes = s.obs.txBytes ++ bs := by
  induction bs generalizing s with
  | nil => exact ⟨s, run_zero s, idle_of_bytesToEmit_nil hinv hf hbs, (List.append_nil _).symm⟩
  | cons b bs ih =>
    have hp : s.tx.phase ≠ TxPhase.idle := by
      intro e
      cases hbs.symm.trans (bytesToEmit_of_idle e)
    obtain ⟨t, b', ht, hinvt, hft, henv, hobs, hbytes⟩ :=
      takeAction_txEmit_takes_first (s := dropAction s) (hinv.congr rfl rfl rfl) hf hp
    have hcons : b = b' ∧ bs = bytesToEmit t := List.cons_eq_cons.mp (hbs.symm.trans hbytes)
    obtain ⟨rfl, rfl⟩ := hcons
    have hrest : t.env.sched = List.replicate (bytesToEmit t).length .txEmit := by
      rw [henv, dropAction_env, hsched]
      rfl
    obtain ⟨u, hu, hidle, hout⟩ := ih hinvt hft rfl hrest
    refine ⟨u, ?_, hidle, ?_⟩
    · rw [List.length_cons, run_succ ((step_cons hsched).trans ht)]
      exact hu
    · rw [hout, hobs, dropAction_obs, List.append_assoc, List.singleton_append]

/-- The length of a frame (30_encoding.md R46, 40_frame_codec.md R65). -/
theorem length_encodeFrame (e : Bool) (topic : Half) (P : List Byte) :
    (encodeFrame e topic P).length = 7 + P.length + P.countP (isReserved e) := by
  rw [encodeFrame, List.length_append, length_escape, Nat.add_assoc]
  rfl

theorem payBytes_eq {s : State} {P : List Byte} (h : ∀ i, i < P.length → payByte s i = P.getD i 0#8) :
    payBytes s P.length = P := by
  refine List.ext_getElem (length_payBytes s _) fun i hi hi' => ?_
  simp [payBytes, h i hi', hi']

/-- Settles O57: the accepted command leaves `encode_frame(T, P)` to emit (O55), and the TxEmit steps emit it. -/
theorem sentFrameIsEncodeFrame : Obligations.SentFrameIsEncodeFrame := by
  rintro s topic P n hlen hf hp hP rfl
  let len : Half := BitVec.ofNat 16 P.length
  let n := 7 + P.length + P.countP (isReserved s.params.endMarker)
  let s₀ := sendAndPull (txCmdWord 0#1 topic len) n s
  let s₁ := tookCmd (dropAction s₀)
  have hlen' : len.toNat = P.length := Nat.mod_eq_of_lt hlen
  obtain ⟨t, ht, hbytes⟩ := sendFrameQueuesEncodedFrame s₁ topic len hf hp
  have hpay : payBytes s₁ len.toNat = P := by
    rw [hlen']
    exact payBytes_eq (s := s₁) hP
  rw [hpay] at hbytes
  have hstep : step s₀ = .next t := by
    rw [step_cons rfl, takeAction_txCmd (s := dropAction s₀) rfl hp, decodeTxCmd_frame]
    exact ht
  cases (txCmdStep_idle (s := s₁) hf hp _).symm.trans ht
  rw [Nat.add_comm, run_succ hstep, ← length_encodeFrame s.params.endMarker topic P]
  refine run_txEmit (txInv_of_header rfl rfl (.inl hf)) hf hbytes ?_
  rw [length_encodeFrame]
  rfl

end Sys2Proof.Machine
end

section
/-! Exceptions (60_exceptions.md): what a step can answer and what it records (R120, R148), and the acknowledge, the
timeout and the reset (R132, R142, R146, R147). -/

namespace Sys2Proof.Machine

/-! ## What a step answers (R120) -/

/-- The answers of a block with the faults `rf` and `tf` recorded on its halves: a next state, or the stop with a
recorded fault. -/
inductive Answers (rf tf : Option Fault) : Result → Prop where
  | next (t : State) : Answers rf tf (.next t)
  | rxStop (f : Fault) : rf = some f → Answers rf tf (.fault f)
  | txStop (f : Fault) : tf = some f → Answers rf tf (.fault f)

section
variable {s : State} {r : Result} (h : Answers s.rxFault s.txFault r)
include h

theorem Answers.onRxHalf : Answers s.rxFault s.txFault (onRxHalf s r) := by
  unfold Machine.onRxHalf
  split
  case h_1 f hf => exact .rxStop f hf
  case h_2 => exact h

theorem Answers.onTxHalf : Answers s.rxFault s.txFault (onTxHalf s r) := by
  unfold Machine.onTxHalf
  split
  case h_1 f hf => exact .txStop f hf
  case h_2 => exact h

/-- An action under its enabling condition. -/
theorem Answers.whenEnabled (c : Prop) [Decidable c] :
    Answers s.rxFault s.txFault (if c then r else .next s) := by
  split_ifs
  exacts [h, .next s]

theorem Answers.rxByteStep : Answers s.rxFault s.txFault (rxByteStep s r) := h.onRxHalf.whenEnabled _

theorem Answers.timeoutStep : Answers s.rxFault s.txFault (timeoutStep s r) := h.onRxHalf.whenEnabled _

theorem Answers.txCmdStep : Answers s.rxFault s.txFault (txCmdStep s r) := h.onTxHalf.whenEnabled _

theorem Answers.txEmitStep : Answers s.rxFault s.txFault (txEmitStep s r) := h.onTxHalf.whenEnabled _

end

/-- Every rx row is an RxByte step with a next state. -/
theorem exec_of_rxDecoded {p : Params} {w : BitVec 11} {i : Instr} (h : RxDecoded p w i) (s : State) :
    ∃ t, exec i s = rxByteStep s (.next t) := by
  cases h <;> exact ⟨_, rfl⟩

/-- Every command row is a TxCmd step with a next state. -/
theorem exec_decodeTxCmd (c : BitVec 33) (s : State) :
    ∃ t, exec (decodeTxCmd c) s = txCmdStep s (.next t) := by
  unfold decodeTxCmd
  split_ifs
  · exact ⟨_, rfl⟩
  · exact ⟨if s.params.endMarker then setPhase TxPhase.endmk s else s,
      congrArg (txCmdStep s) (apply_ite Host.Outcome.next _ _ _).symm⟩

/-- A PayWrite answers a next state whatever is recorded. -/
theorem execPayWrite_completes (a : Half) (v : Byte) (s : State) : ∃ t, execPayWrite a v s = .next t := by
  unfold execPayWrite
  split_ifs <;> exact ⟨_, rfl⟩

/-- Every action answers a next state, or stops with a fault recorded before it. -/
theorem takeAction_answers (a : Action) (s : State) : Answers s.rxFault s.txFault (takeAction a s) := by
  cases a with
  | rxByte =>
    cases hr : s.env.rxIn with
    | nil => rw [takeAction_rxByte_none (.inl hr)]; exact .next s
    | cons b bs =>
      cases hp : s.evt.pending with
      | true => rw [takeAction_rxByte_none (.inr hp)]; exact .next s
      | false =>
        obtain ⟨t, ht⟩ := exec_of_rxDecoded (rxDecoded_decodeRx s.params (rxWord s.rx.state b)) (tookByte s)
        rw [takeAction_rxByte hr hp, ht]
        exact (Answers.next t).rxByteStep (s := tookByte s)
  | txCmd =>
    cases hc : s.env.cmdIn with
    | nil => rw [takeAction_txCmd_none (.inl hc)]; exact .next s
    | cons c cs =>
      by_cases hp : s.tx.phase = TxPhase.idle
      · obtain ⟨t, ht⟩ := exec_decodeTxCmd c (tookCmd s)
        rw [takeAction_txCmd hc hp, ht]
        exact (Answers.next t).txCmdStep (s := tookCmd s)
      · rw [takeAction_txCmd_none (.inr hp)]; exact .next s
  | txEmit =>
    by_cases hp : s.tx.phase = TxPhase.idle
    · rw [takeAction_txEmit_idle hp]; exact .next s
    · obtain ⟨i, hi⟩ := decodeTxEmit_ok hp
      obtain ⟨t, ht⟩ := exec_of_decodeTxEmit hi s
      rw [takeAction_txEmit hp hi, ht]
      exact (Answers.next t).txEmitStep
  | evtAck => rw [takeAction_evtAck, exec_evtAck]; exact .next _
  | timeout => exact (Answers.next _).timeoutStep
  | reset => exact .next _
  | bufRead addr => exact .next _
  | payWrite addr v =>
    obtain ⟨t, ht⟩ := execPayWrite_completes addr v s
    rw [takeAction_payWrite, ht]
    exact .next t

theorem step_answers (s : State) : Answers s.rxFault s.txFault (step s) := by
  cases hs : s.env.sched with
  | nil => rw [step_nil hs]; exact .next s
  | cons a rest => rw [step_cons hs]; exact takeAction_answers a (dropAction s)

/-- Settles O45: with nothing recorded, neither stop is an answer. -/
theorem stepNeverStopsWithoutRecordedFault : Obligations.StepNeverStopsWithoutRecordedFault := by
  intro s hrx htx
  have h := step_answers s
  rw [hrx, htx] at h
  cases h' : step s with
  | next t => exact ⟨t, rfl⟩
  | fault f => rw [h'] at h; cases h <;> contradiction
  | refused r => rw [h'] at h; cases h

/-- Settles O46: both stops name a recorded fault, and a refusal is no answer. -/
theorem stepStopsOnlyWithRecordedFault : Obligations.StepStopsOnlyWithRecordedFault := by
  intro s
  have h := step_answers s
  refine ⟨fun f hf => ?fault, fun r hr => ?refused⟩
  case fault =>
    rw [hf] at h
    cases h with
    | rxStop _ hrx => exact .inl hrx
    | txStop _ htx => exact .inr htx
  case refused =>
    rw [hr] at h
    cases h

/-! ## What a step records (R120) -/

/-- A received byte records a fault only in a reserved parser state (41_rx_parser.md R90). -/
theorem RxEffect.rxFault_cases {s t : State} {b : Byte} (h : RxEffect s b t) :
    t.rxFault = s.rxFault ∨ (RxState.resc < s.rx.state ∧ t.rxFault = some .reservedParserState) := by
  cases h with
  | reserved e => exact .inr ⟨e, rfl⟩
  | _ => exact .inl rfl

/-- An emission records a fault only in a reserved phase (42_tx_serializer.md R114). -/
theorem TxEffect.txFault_cases {s t : State} (h : TxEffect s t) :
    t.txFault = s.txFault ∨ (TxPhase.endmk < s.tx.phase ∧ t.txFault = some .reservedTxPhase) := by
  cases h with
  | reserved e => exact .inr ⟨e, rfl⟩
  | _ => exact .inl rfl

theorem CmdEffect.txFault {s t : State} {c : BitVec 33} (h : CmdEffect s c t) : t.txFault = s.txFault := by
  cases h <;> rfl

/-- A PayWrite records a fault only where it breaks the stability duty, and keeps the first fault
(70_reset_and_hazards.md R167). -/
theorem payWrite_txFault {s t : State} {a : Half} {v : Byte} (h : execPayWrite a v s = .next t) :
    t.txFault = s.txFault ∨
      (s.tx.phase ≠ TxPhase.idle ∧ a < s.tx.len ∧ t.txFault = some .payloadChangedDuringSend) := by
  obtain ⟨-, rfl⟩ | ⟨hb, rfl⟩ := payWrite_next h
  · exact .inl rfl
  · obtain ⟨hphase, hlt⟩ := payWriteBreaks_iff.mp hb
    rw [setTxFault_txFault]
    cases s.txFault with
    | none => exact .inr ⟨hphase, hlt, rfl⟩
    | some f => exact .inl rfl

/-- What an action does to the RX half's record. -/
theorem takeAction_rxFault {s t : State} {a : Action} (h : takeAction a s = .next t) :
    t.rxFault = s.rxFault ∨ (a = .reset ∧ t.rxFault = none) ∨
      (a = .rxByte ∧ s.evt.pending = false ∧ RxState.resc < s.rx.state ∧
        t.rxFault = some .reservedParserState) := by
  obtain (rfl | rfl | rfl | ⟨addr, rfl⟩) | htx | rfl := a.half_or_reset
  · obtain ⟨-, rfl⟩ | ⟨b, bs, -, hp, h⟩ := takeAction_rxByte_next h
    · exact .inl rfl
    · exact (rxRow_next (s := tookByte s) hp h).2.rxFault_cases.imp_right
        fun ⟨hst, hf⟩ => .inr ⟨rfl, hp, hst, hf⟩
  · obtain ⟨-, rfl⟩ | ⟨-, rfl⟩ := evtAck_next h <;> exact .inl rfl
  · obtain ⟨-, rfl⟩ | ⟨-, -, rfl⟩ := timeout_next h <;> exact .inl rfl
  · cases h
    exact .inl rfl
  · obtain ⟨-, -, -, hf, -⟩ := takeAction_rxHalfKept htx h
    exact .inl hf
  · cases h
    exact .inr (.inl ⟨rfl, rfl⟩)

/-- What an action does to the TX half's record. -/
theorem takeAction_txFault {s t : State} {a : Action} (h : takeAction a s = .next t) :
    t.txFault = s.txFault ∨ (a = .reset ∧ t.txFault = none) ∨
      (a = .txEmit ∧ TxPhase.endmk < s.tx.phase ∧ t.txFault = some .reservedTxPhase) ∨
      ∃ addr v, a = .payWrite addr v ∧ s.tx.phase ≠ TxPhase.idle ∧ addr < s.tx.len ∧
        t.txFault = some .payloadChangedDuringSend := by
  obtain hrx | (rfl | rfl | ⟨addr, v, rfl⟩) | rfl := a.half_or_reset
  · obtain ⟨-, hf, -⟩ := takeAction_txHalfKept hrx h
    exact .inl hf
  · obtain ⟨-, rfl⟩ | ⟨c, cs, -, hp, h⟩ := takeAction_txCmd_next h
    · exact .inl rfl
    · exact .inl (cmdRow_next (s := tookCmd s) hp h).2.txFault
  · obtain ⟨-, rfl⟩ | ⟨i, hp, hi, h⟩ := takeAction_txEmit_next h
    · exact .inl rfl
    · exact (txRow_next hp hi h).2.txFault_cases.imp_right fun hf => .inr (.inl ⟨rfl, hf⟩)
  · exact (payWrite_txFault h).imp_right fun hf => .inr (.inr ⟨addr, v, rfl, hf⟩)
  · cases h
    exact .inr (.inl ⟨rfl, rfl⟩)

/-- Settles O47: a step waits or takes one action, and each action's effect on the two records is known. -/
theorem faultsRecordedOnlyForNamedCauses : Obligations.FaultsRecordedOnlyForNamedCauses := by
  intro s t h
  obtain ⟨-, rfl⟩ | ⟨a, ha, h⟩ := step_next h
  · exact ⟨.inl rfl, .inl rfl⟩
  · simp only [ha, Option.some.injEq]
    exact ⟨takeAction_rxFault (s := dropAction s) h, takeAction_txFault (s := dropAction s) h⟩

/-! ## The acknowledge and the reset (R142, R132) -/

/-- Settles O30: `takeEvent` is R142's effect, and an acknowledge with nothing pending is no transfer. -/
theorem evtAckTakesEvent : Obligations.EvtAckTakesEvent := by
  refine ⟨fun _ => rfl, fun s => ⟨exec_evtAck_of_pending, fun hp => ?idle⟩⟩
  case idle => rw [exec_evtAck, acked_of_not_pending hp]

/-- Settles O34: R160's next state has neither record. -/
theorem resetDropsRecordedFaults : Obligations.ResetDropsRecordedFaults :=
  fun _ => ⟨_, rfl, rfl, rfl⟩

/-! ## The timeout (R146, R147) -/

theorem timeoutEnabled_iff {s : State} : timeoutEnabled s = true ↔
    s.params.timeoutPresent = true ∧ s.rx.state ≠ RxState.wfh ∧ s.evt.pending = false := by
  simp [timeoutEnabled, and_assoc]

/-- A strobe that is not enabled has no effect. -/
theorem exec_timeout_of_disabled {s : State} (h : ¬ timeoutEnabled s = true) : exec .timeout s = .next s :=
  if_neg h

/-- Settles O31: R146's abort where the strobe is enabled, and its corner case where it is not. -/
theorem timeoutAbortsFrame : Obligations.TimeoutAbortsFrame := by
  refine ⟨fun _ => rfl, fun s hpresent => ⟨fun hf hst hp => ?abort, fun hcorner => ?corner⟩⟩
  case abort => exact timeoutStep_enabled hf (timeoutEnabled_iff.mpr ⟨hpresent, hst, hp⟩) _
  case corner =>
    refine exec_timeout_of_disabled fun he => ?_
    obtain ⟨-, hst, hp⟩ := timeoutEnabled_iff.mp he
    exact hcorner.elim hst fun hp' => Bool.false_ne_true (hp.symm.trans hp')

theorem frameEvent_err (P : List Byte) (chk topic len : Half) (b : Byte) :
    (frameEvent P chk topic len b).err = 0#3 := by
  unfold frameEvent
  split_ifs <;> rfl

/-- No received byte raises IncompletePacket: it leaves the event registers, or loads another error code. -/
theorem RxEffect.evt_or_err_ne {s t : State} {b : Byte} (h : RxEffect s b t) :
    t.evt = s.evt ∨ t.evt.err ≠ ErrorKind.incompletePacket.code := by
  cases h with
  | start | header | payload | escape | store | reserved => exact .inl rfl
  | boundary | outOfFrame | tooLong | resync | strict | guard => exact .inr (by simp [ErrorKind.code])
  | empty | finish => exact .inr (by simp [completionEvt, frameEvent_err, ErrorKind.code])

/-- In a block without the option an action that leaves IncompletePacket's code in the event registers found it
there. -/
theorem takeAction_incompletePacket {s t : State} {a : Action} (hpresent : s.params.timeoutPresent = false)
    (h : takeAction a s = .next t) (herr : t.evt.err = ErrorKind.incompletePacket.code) :
    t.evt = s.evt ∨ (t.evt = { s.evt with pending := false } ∧ a = .evtAck) := by
  obtain (rfl | rfl | rfl | ⟨addr, rfl⟩) | htx | rfl := a.half_or_reset
  · obtain ⟨-, rfl⟩ | ⟨b, bs, -, hp, h⟩ := takeAction_rxByte_next h
    · exact .inl rfl
    · exact .inl ((rxRow_next (s := tookByte s) hp h).2.evt_or_err_ne.resolve_right fun hne => hne herr)
  · obtain ⟨-, rfl⟩ | ⟨-, rfl⟩ := evtAck_next h
    exacts [.inr ⟨rfl, rfl⟩, .inl rfl]
  · obtain ⟨-, rfl⟩ | ⟨he, -, -⟩ := timeout_next h
    · exact .inl rfl
    · exact absurd (timeoutEnabled_iff.mp he).1 (by simp [hpresent])
  · cases h
    exact .inl rfl
  · obtain ⟨-, -, hevt, -⟩ := takeAction_rxHalfKept htx h
    exact .inl hevt
  · cases h
    exact absurd herr (by simp [EvtRegs.reset, ErrorKind.code])

/-- Settles O32: the strobe is never enabled without the option, and no other action raises IncompletePacket. -/
theorem timeoutAbsentHasNoEffect : Obligations.TimeoutAbsentHasNoEffect := by
  intro s hpresent
  refine ⟨exec_timeout_of_disabled ?disabled, fun t h _ herr => ?loads⟩
  case disabled => simp [timeoutEnabled_iff, hpresent]
  case loads =>
    obtain ⟨-, rfl⟩ | ⟨a, ha, h⟩ := step_next h
    · exact .inl rfl
    · simp only [ha, Option.some.injEq]
      exact takeAction_incompletePacket (s := dropAction s) hpresent h herr

/-- The event premise of O32 has a state: the code left in the registers, and its acknowledge. -/
theorem witness_TimeoutAbsentHasNoEffect :
    (let s := schedule .evtAck
      (State.reset.setEvt ⟨true, EvtType.error, ErrorKind.incompletePacket.code, 0#16, 0#16, 0#16, 0#8⟩)
     s.params.timeoutPresent = false ∧ nextAction s = some .evtAck ∧
      ∃ t, step s = .next t ∧ t.evt.type = 1#2 ∧ t.evt.err = 3#3) :=
  ⟨rfl, rfl, _, rfl, rfl, rfl⟩

end Sys2Proof.Machine
end

section
/-! Reset (70_reset_and_hazards.md): what the RESET row loads from any state (R160), and the reset state's registers
and invariant (R161). -/

namespace Sys2Proof.Machine

/-! ## The RESET row (R160) -/

/-- The whole effect of the row: the three register groups and both fault records; every field not named here is
kept. -/
theorem exec_reset (s : State) : exec .reset s = .next
    { s with rx := RxRegs.reset, evt := EvtRegs.reset, tx := TxRegs.reset, rxFault := none, txFault := none } :=
  rfl

/-- R160's example: the ready and valid signals of a block whose event registers and serializer are reset. -/
theorem signals_of_reset {t : State} (he : t.evt = EvtRegs.reset) (ht : t.tx = TxRegs.reset) :
    rxReady t = true ∧ cmdReady t = true ∧ evtValid t = false ∧ txValid t = false := by
  simp [rxReady, cmdReady, evtValid, txValid, he, ht, EvtRegs.reset, TxRegs.reset]

/-- Settles O33: the registers and what is kept are the row's effect, and R160's signals follow from the registers. -/
theorem resetLoadsResetValues : Obligations.ResetLoadsResetValues :=
  ⟨fun _ => rfl, fun s => ⟨_, exec_reset s, rfl, rfl, rfl, rfl, rfl, rfl, rfl, rfl, rfl, signals_of_reset rfl rfl⟩⟩

/-! ## The reset state (R161) -/

/-- A memory that nothing has written. -/
theorem canonical_nil (n : Nat) : Canonical [] n := ⟨rfl, by simp⟩

/-- The reset state has empty memories, the parser in WFH, no event and an idle serializer. -/
theorem inv_resetWith (p : Params) : Inv (State.resetWith p) where
  mem := memInv_iff.mpr ⟨canonical_nil _, canonical_nil _⟩
  rx := rxInv_of_reset rfl rfl
  evt := evtInv_of_loaded_empty (legalCodes_noError EvtType.packet (by decide)) rfl (.inl rfl)
  tx := txInv_of_idle rfl (.inl rfl)

/-- Settles O43: the invariant of the reset state part by part, and its registers by evaluation. -/
theorem resetStateMeetsInvariant : Obligations.ResetStateMeetsInvariant :=
  ⟨inv_resetWith, rfl, rfl, rfl⟩

end Sys2Proof.Machine
end

section
/-! Recorded faults (93_implementation_defined.md section 1, log 8): every action that a half is enabled to take
stops with the fault recorded on it. -/

namespace Sys2Proof.Machine

/-! ## Enabled steps with a fault recorded -/

/-- An enabled Timeout with a fault recorded stops with it. -/
theorem timeoutStep_faulted {s : State} {f : Fault} (hf : s.rxFault = some f) (he : timeoutEnabled s = true)
    (r : Result) : timeoutStep s r = .fault f := by
  simp [timeoutStep, onRxHalf, hf, he]

/-- A TxCmd step with a fault recorded stops with it. -/
theorem txCmdStep_faulted {s : State} {f : Fault} (hf : s.txFault = some f) (hp : s.tx.phase = TxPhase.idle)
    (r : Result) : txCmdStep s r = .fault f := by
  simp [txCmdStep, onTxHalf, hf, cmdReady, hp]

/-! ## Actions with a fault recorded -/

/-- Whichever rx row a transferred byte selects, it stops. -/
theorem takeAction_rxByte_faulted {s : State} {f : Fault} {b : Byte} {bs : List Byte} (hf : s.rxFault = some f)
    (hr : s.env.rxIn = b :: bs) (hp : s.evt.pending = false) : takeAction .rxByte s = .fault f := by
  obtain ⟨t, ht⟩ := exec_of_rxDecoded (rxDecoded_decodeRx s.params (rxWord s.rx.state b)) (tookByte s)
  rw [takeAction_rxByte hr hp, ht, rxByteStep_faulted (s := tookByte s) hf hp]

/-- Either command row stops. -/
theorem takeAction_txCmd_faulted {s : State} {f : Fault} {c : BitVec 33} {cs : List (BitVec 33)}
    (hf : s.txFault = some f) (hc : s.env.cmdIn = c :: cs) (hp : s.tx.phase = TxPhase.idle) :
    takeAction .txCmd s = .fault f := by
  obtain ⟨t, ht⟩ := exec_decodeTxCmd c (tookCmd s)
  rw [takeAction_txCmd hc hp, ht, txCmdStep_faulted (s := tookCmd s) hf hp]

/-- The row of every phase but IDLE stops. -/
theorem takeAction_txEmit_faulted {s : State} {f : Fault} (hf : s.txFault = some f)
    (hp : s.tx.phase ≠ TxPhase.idle) : takeAction .txEmit s = .fault f := by
  obtain ⟨i, hi⟩ := decodeTxEmit_ok hp
  obtain ⟨t, ht⟩ := exec_of_decodeTxEmit hi s
  rw [takeAction_txEmit hp hi, ht, txEmitStep_faulted hf hp]

/-! ## The statement -/

/-- Settles O20: an action enabled on a half with a recorded fault stops with it, and a Timeout that is not enabled
answers its state with the choice spent. -/
theorem recordedFaultStopsItsHalf : Obligations.RecordedFaultStopsItsHalf := by
  intro s f
  refine ⟨fun hf b bs ha hr hp => ?rxByte, fun hf ha he => ?timeout, fun ha he => ?disabled,
    fun hf c cs ha hc hp => ?txCmd, fun hf ha hp => ?txEmit⟩
  all_goals rw [step_of_nextAction ha]
  case rxByte => exact takeAction_rxByte_faulted (s := dropAction s) hf hr hp
  case timeout => exact timeoutStep_faulted (s := dropAction s) hf he _
  case disabled => exact timeoutStep_disabled (s := dropAction s) he _
  case txCmd => exact takeAction_txCmd_faulted (s := dropAction s) hf hc hp
  case txEmit => exact takeAction_txEmit_faulted (s := dropAction s) hf hp

end Sys2Proof.Machine
end
